-- ==== Sys2Proof/Word.lean ====
section
/-! DEFINITION. The word types of the engine: the widths that spec/10_state.md rule R21 and spec/30_encoding.md
rules R82 and R89 give. Bit 0 of every word is its least significant bit (R11). -/

namespace Sys2Proof

/-- A DutyTable value and the VAL field of a trace word: 8 bits (R60, R82). -/
abbrev Byte := BitVec 8

/-- A time or a deadline: 64-bit unsigned microseconds (R89; TIME_W = 64 of R7). -/
abbrev Time := BitVec 64

/-- The FrequencyMode register and the MD field of a trace word: 3 bits (R25, R82). -/
abbrev ModeNo := BitVec 3

/-- The PlaybackCursor and the IDX field of a trace word: 16 bits (R24, R82). -/
abbrev Index := BitVec 16

/-- A 32-bit trace word (R82). -/
abbrev TraceWord := BitVec 32

/-- The largest time value, `2^64 - 1` (R147). -/
abbrev maxTime : Nat := 2 ^ 64 - 1

/-- The largest 32-bit value, the upper bound of every duration of `cfg` (R101). -/
abbrev maxDuration : Nat := 2 ^ 32 - 1

end Sys2Proof
end

