-- ==== Sys2Proof/Config.lean ====
section
/-! DEFINITION. What an implementation fixes: the configuration record `cfg` of spec/00_scope.md rule R7 and its
reference values (R8); and the free values, the answers of the environment that nothing has scripted (R13). -/

namespace Sys2Proof

/-- The configuration record `cfg`, one field per row of rule R7's table. The fields are natural numbers and not bit
vectors, because INIT has to be able to refuse a value that no register can hold (R101). -/
structure Cfg where
  /-- `N`, the DutyTable's length. -/
  n : Nat
  /-- `MIN`, the lowest table value. -/
  min : Nat
  /-- `MAX`, the highest table value. -/
  max : Nat
  /-- `M`, the number of modes. -/
  m : Nat
  /-- `INTERVAL`, the read-only register file of update intervals in µs, one per mode (R39). -/
  interval : List Nat
  /-- `MSI`, the mode-switch interval in µs. -/
  msi : Nat
  /-- `T_ON`, a feedback pulse's on-duration in µs. -/
  tOn : Nat
  /-- `T_OFF`, the off-duration between two feedback pulses in µs. -/
  tOff : Nat
  /-- `NATIVE_MAX`, the PWM peripheral's largest native duty value. -/
  nativeMax : Nat
  /-- `NATIVE_W`, the width of the native duty port. -/
  nativeW : Nat
  /-- `K`, the iterations between two yields. -/
  k : Nat
  /-- `YIELD_DUR`, which no rule reads (R7, R146). -/
  yieldDur : Nat
  /-- `PWM_CHANNEL`, an opaque identifier. -/
  pwmChannel : Nat
  /-- `CARRIER_FREQ`, an opaque argument of PWM_CONFIGURE. -/
  carrierFreq : Nat
  /-- `RESOLUTION`, an opaque argument of PWM_CONFIGURE. -/
  resolution : Nat
  /-- `IND_PIN`, an opaque identifier. -/
  indPin : Nat
  /-- `IND_ACTIVE_HIGH`, whether ON drives the pin high (R35). -/
  indActiveHigh : Bool
  /-- `DOFF`, the first duty deadline's offset from the start time in µs. -/
  dOff : Nat
  /-- `MOFF`, the first mode deadline's offset from the start time in µs. -/
  mOff : Nat
deriving DecidableEq, Repr

/-- `cfg_ref` of rule R8. The eight parameters that have no reference value stay arguments, as the rule says. -/
def Cfg.ref (nativeMax nativeW k yieldDur pwmChannel carrierFreq resolution indPin : Nat) : Cfg where
  n := 4096
  min := 51
  max := 204
  m := 6
  interval := [1000, 500, 333, 250, 200, 166]
  msi := 200000
  tOn := 15000
  tOff := 15000
  nativeMax := nativeMax
  nativeW := nativeW
  k := k
  yieldDur := yieldDur
  pwmChannel := pwmChannel
  carrierFreq := carrierFreq
  resolution := resolution
  indPin := indPin
  indActiveHigh := true
  dOff := 0
  mOff := 200000

/-- The configuration that `State.reset` holds: `cfg_ref` completed as spec/95_test_vectors.md completes it to REF
(NATIVE_MAX = 1023, NATIVE_W = 10, K = 64), and 0 for the parameters that are opaque or that no rule reads.
DESIGN CHOICE, unsafe (notes/assumptions/2.md): no statement rests on these values. -/
def Cfg.start : Cfg := Cfg.ref 1023 10 64 0 0 0 0 0

/-! The free values: what the environment answers at a step nobody has scripted (R13: a draw is a free input of a
step). They have no body, so nothing in Lean can evaluate one or prove a value of it. `State.drawNo` indexes them
(notes/assumptions/3.md). -/

/-- The reset request at an unscripted step: R221, the environment may assert `rst` at every step. -/
opaque Config.freeRst : Nat → Bool

/-- The clock input at an unscripted step: R141, R208, any value. -/
opaque Config.freeClk : Nat → Time

/-- The entropy draw at an unscripted step, as its distance above MIN when the range has `k + 1` values: R104, any
value of [MIN, MAX]. -/
opaque Config.freeEntropy : Nat → (k : Nat) → Fin (k + 1)

/-- The PWM peripheral's answer to PWM_CONFIGURE at an unscripted step: R208, accept or reject. -/
opaque Config.freeCfgOk : Nat → Bool

/-- The PWM peripheral's answer to a duty write at an unscripted step: R208, accept or fail. -/
opaque Config.freeWrOk : Nat → Bool

end Sys2Proof
end

