-- ==== Sys2Proof/Syntax.lean ====
section
/-! DEFINITION. The operation set of spec/30_encoding.md rule R80, one constructor per row of spec/opcode_table.json,
with the fields that rule R84 gives the row's trace word. The engine fetches no instructions: an operation is what one
step performs, and its fields are what the step's trace word SAYS it did (R81). -/

namespace Sys2Proof

/-- One operation with the fields of its trace word. `f` is the F bit where rule R84 lets it vary, `md` the MD field,
`idx` the IDX field, `val` the VAL field; a field that R84 marks 0 (or fixes) is not a field here. -/
inductive Instr where
  /-- RESET (R220): every piece of state to its reset value. -/
  | reset
  /-- INIT (R102): validate `cfg`, configure the PWM peripheral, drive the indicator off. -/
  | init (md : ModeNo)
  /-- FILL (R103): write one DutyTable entry; `idx` the index and `val` the value written. -/
  | fill (md : ModeNo) (idx : Index) (val : Byte)
  /-- START (R106): sample the start time and set both deadlines. -/
  | start
  /-- SAMPLE (R142): take the iteration's clock sample. -/
  | sample (md : ModeNo)
  /-- DUTY_CHECK (R143): the duty deadline; `f` fired, `idx` the index and `val` the value read. -/
  | dutyCheck (f : Bool) (md : ModeNo) (idx : Index) (val : Byte)
  /-- MODE_CHECK (R144): the mode deadline; `f` fired, `md` the mode after, `val` the signal count. -/
  | modeCheck (f : Bool) (md : ModeNo) (val : Byte)
  /-- ITER_END (R145): the cadence counter; `f` a YIELD follows. -/
  | iterEnd (f : Bool) (md : ModeNo)
  /-- YIELD (R146): hand control to the surrounding scheduler. -/
  | yield (md : ModeNo)
  /-- SIG_START (R171): the first pulse on; `val` the pulses to come. -/
  | sigStart (md : ModeNo) (val : Byte)
  /-- SIG_WAIT (R172): a poll inside a pulse phase; `f` the pulse is on. -/
  | sigWait (f : Bool) (md : ModeNo) (val : Byte)
  /-- SIG_ON_END (R173): the end of an on-duration; `val` the pulses left after it. -/
  | sigOnEnd (md : ModeNo) (val : Byte)
  /-- SIG_OFF_END (R174): the end of an off-duration; the next pulse on. -/
  | sigOffEnd (md : ModeNo) (val : Byte)
  /-- FAULT (R191): `raise Fault(val)`. -/
  | fault (md : ModeNo) (val : Byte)
deriving DecidableEq, Repr

end Sys2Proof
end

