-- ==== Sys2Proof/WellFormed.lean ====
section
/-! DEFINITION. Which operations with fields are valid for a given `cfg`: clause (c) of spec/30_encoding.md rule R85
over the ranges of rule R84. What does not depend on the values of fields (a reserved OP, a field marked 0, a fixed F
bit) is the decoder's business and cannot be written as an `Instr`. -/

namespace Sys2Proof

/-- R85 (c): MD < M. -/
abbrev Instr.ModeOk (c : Cfg) (md : ModeNo) : Prop := md.toNat < c.m

/-- R85 (c): IDX < N. -/
abbrev Instr.IndexOk (c : Cfg) (idx : Index) : Prop := idx.toNat < c.n

/-- R84: a table value is in MIN..MAX. -/
abbrev Instr.ValueOk (c : Cfg) (val : Byte) : Prop := c.min ≤ val.toNat ∧ val.toNat ≤ c.max

/-- R84: a pulse count of SIG_START and SIG_WAIT is in 1..M. -/
abbrev Instr.CountOk (c : Cfg) (val : Byte) : Prop := 1 ≤ val.toNat ∧ val.toNat ≤ c.m

/-- R84: a pulse count that SIG_ON_END leaves is in 0..M-1. -/
abbrev Instr.CountLeftOk (c : Cfg) (val : Byte) : Prop := val.toNat + 1 ≤ c.m

/-- R84: a pulse count of SIG_OFF_END is in 1..M-1. -/
abbrev Instr.CountBetweenOk (c : Cfg) (val : Byte) : Prop := 1 ≤ val.toNat ∧ val.toNat + 1 ≤ c.m

/-- R84, R190: the fault codes that are ever raised are 1..6. -/
abbrev Instr.CodeOk (val : Byte) : Prop := 1 ≤ val.toNat ∧ val.toNat ≤ 6

/-- R84, DUTY_CHECK: index and value read if it fired, both 0 if not. -/
abbrev Instr.DutyOk (c : Cfg) (f : Bool) (idx : Index) (val : Byte) : Prop :=
  if f then Instr.IndexOk c idx ∧ Instr.ValueOk c val else idx = 0 ∧ val = 0

/-- R84, MODE_CHECK: VAL is the signal count MD + 1 if it fired, 0 if not. -/
abbrev Instr.SignalOk (f : Bool) (md : ModeNo) (val : Byte) : Prop :=
  if f then val.toNat = md.toNat + 1 else val = 0

/-- The fields of the operation are in the ranges of rule R84 for this `cfg` (R85 (c)). FAULT's MD may have any
value, because an illegal state may hold `mode ≥ M`.

START, whose MD is fixed 0 by clause (b), is asked `MD < M` like the rest. DESIGN CHOICE (notes/assumptions/16.md): RESET is
not, because R193 has the engine emit its word under a `cfg` with `M = 0` as well. -/
def Instr.wellFormed (c : Cfg) : Instr → Bool
  | .reset => true
  | .init md => decide (Instr.ModeOk c md)
  | .fill md idx val => decide (Instr.ModeOk c md ∧ Instr.IndexOk c idx ∧ Instr.ValueOk c val)
  | .start => decide (Instr.ModeOk c 0)
  | .sample md => decide (Instr.ModeOk c md)
  | .dutyCheck f md idx val => decide (Instr.ModeOk c md ∧ Instr.DutyOk c f idx val)
  | .modeCheck f md val => decide (Instr.ModeOk c md ∧ Instr.SignalOk f md val)
  | .iterEnd _ md => decide (Instr.ModeOk c md)
  | .yield md => decide (Instr.ModeOk c md)
  | .sigStart md val => decide (Instr.ModeOk c md ∧ Instr.CountOk c val)
  | .sigWait _ md val => decide (Instr.ModeOk c md ∧ Instr.CountOk c val)
  | .sigOnEnd md val => decide (Instr.ModeOk c md ∧ Instr.CountLeftOk c val)
  | .sigOffEnd md val => decide (Instr.ModeOk c md ∧ Instr.CountBetweenOk c val)
  | .fault _ val => decide (Instr.CodeOk val)

end Sys2Proof
end

