-- ==== Sys2Proof/Decode.lean ====
section
/-! DEFINITION. The decoder of spec/30_encoding.md rule R85 (total on every word, refusing by name), the encoder of rule
R83 and the textual form of rule R88. `decode` settles clauses (a), (b) and (d) of R85, what spec/opcode_table.json's
masks settle; `verdict` adds clause (c), which depends on `cfg`. -/

namespace Sys2Proof

/-! ## The fields of a trace word -/

/-- OP, bits 31:28 (R83). -/
def opField (w : TraceWord) : BitVec 4 := w.extractLsb' 28 4

/-- F, bit 27 (R83). -/
def fField (w : TraceWord) : BitVec 1 := w.extractLsb' 27 1

/-- MD, bits 26:24 (R83). -/
def mdField (w : TraceWord) : ModeNo := w.extractLsb' 24 3

/-- IDX, bits 23:8 (R83). -/
def idxField (w : TraceWord) : Index := w.extractLsb' 8 16

/-- VAL, bits 7:0 (R83). -/
def valField (w : TraceWord) : Byte := w.extractLsb' 0 8

/-- `{OP, F, MD, IDX, VAL}`, the inverse of the five fields (R83). -/
def packWord (op : BitVec 4) (f : BitVec 1) (md : ModeNo) (idx : Index) (val : Byte) : TraceWord :=
  op ++ f ++ md ++ idx ++ val

/-! ## Operation codes -/

/-- The names of rule R80's table. -/
inductive Op where
  | reset | init | fill | start | sample | dutyCheck | modeCheck | iterEnd | yield
  | sigStart | sigWait | sigOnEnd | sigOffEnd | fault
deriving DecidableEq, Repr

/-- The 4-bit operation code (R80). -/
def Op.code : Op → BitVec 4
  | .reset => 0x0#4
  | .init => 0x1#4
  | .fill => 0x2#4
  | .start => 0x3#4
  | .sample => 0x4#4
  | .dutyCheck => 0x5#4
  | .modeCheck => 0x6#4
  | .iterEnd => 0x7#4
  | .yield => 0x8#4
  | .sigStart => 0x9#4
  | .sigWait => 0xA#4
  | .sigOnEnd => 0xB#4
  | .sigOffEnd => 0xC#4
  | .fault => 0xF#4

/-- The operation a code spells; the codes 0xD and 0xE are reserved (R86). -/
def Op.ofCode (c : BitVec 4) : Option Op :=
  match c.toNat with
  | 0 => some .reset
  | 1 => some .init
  | 2 => some .fill
  | 3 => some .start
  | 4 => some .sample
  | 5 => some .dutyCheck
  | 6 => some .modeCheck
  | 7 => some .iterEnd
  | 8 => some .yield
  | 9 => some .sigStart
  | 10 => some .sigWait
  | 11 => some .sigOnEnd
  | 12 => some .sigOffEnd
  | 15 => some .fault
  | _ => none

/-- The operation an instruction is of. -/
def Instr.op : Instr → Op
  | .reset => .reset
  | .init _ => .init
  | .fill _ _ _ => .fill
  | .start => .start
  | .sample _ => .sample
  | .dutyCheck _ _ _ _ => .dutyCheck
  | .modeCheck _ _ _ => .modeCheck
  | .iterEnd _ _ => .iterEnd
  | .yield _ => .yield
  | .sigStart _ _ => .sigStart
  | .sigWait _ _ _ => .sigWait
  | .sigOnEnd _ _ => .sigOnEnd
  | .sigOffEnd _ _ => .sigOffEnd
  | .fault _ _ => .fault

/-! ## Decoding -/

/-- Why a word is INVALID (R85). -/
inductive DecodeError where
  /-- R85 (a), R86: OP is 0xD or 0xE. -/
  | reservedOp
  /-- R85 (b), (d): a field that rule R84 marks 0 is not 0, or a fixed F bit has the other value. -/
  | fieldFixed
  /-- R85 (c): a field is outside the range that rule R84 gives it under this `cfg`. -/
  | fieldRange
deriving DecidableEq, Repr

/-- The instruction `i` if the fixed fields are as rule R84 fixes them. -/
def whenFixed (ok : Prop) [Decidable ok] (i : Instr) : Except DecodeError Instr :=
  if ok then .ok i else .error .fieldFixed

/-- The decoder, one line per row of rule R84 (the rows of spec/opcode_table.json): every word gets an operation with
its fields or the name of what makes it INVALID. -/
def decode (w : TraceWord) : Except DecodeError Instr :=
  match Op.ofCode (opField w) with
  | none => .error .reservedOp
  | some .reset => whenFixed (fField w = 0 ∧ mdField w = 0 ∧ idxField w = 0 ∧ valField w = 0) .reset
  | some .init => whenFixed (fField w = 0 ∧ idxField w = 0 ∧ valField w = 0) (.init (mdField w))
  | some .fill => whenFixed (fField w = 0) (.fill (mdField w) (idxField w) (valField w))
  | some .start => whenFixed (fField w = 0 ∧ mdField w = 0 ∧ idxField w = 0 ∧ valField w = 0) .start
  | some .sample => whenFixed (fField w = 0 ∧ idxField w = 0 ∧ valField w = 0) (.sample (mdField w))
  | some .dutyCheck => .ok (.dutyCheck (fField w == 1) (mdField w) (idxField w) (valField w))
  | some .modeCheck => whenFixed (idxField w = 0) (.modeCheck (fField w == 1) (mdField w) (valField w))
  | some .iterEnd => whenFixed (idxField w = 0 ∧ valField w = 0) (.iterEnd (fField w == 1) (mdField w))
  | some .yield => whenFixed (fField w = 0 ∧ idxField w = 0 ∧ valField w = 0) (.yield (mdField w))
  | some .sigStart => whenFixed (fField w = 1 ∧ idxField w = 0) (.sigStart (mdField w) (valField w))
  | some .sigWait => whenFixed (idxField w = 0) (.sigWait (fField w == 1) (mdField w) (valField w))
  | some .sigOnEnd => whenFixed (fField w = 0 ∧ idxField w = 0) (.sigOnEnd (mdField w) (valField w))
  | some .sigOffEnd => whenFixed (fField w = 1 ∧ idxField w = 0) (.sigOffEnd (mdField w) (valField w))
  | some .fault => whenFixed (fField w = 0 ∧ idxField w = 0) (.fault (mdField w) (valField w))

/-- Clause (c) of rule R85: the fields are in their ranges under `cfg`. -/
def inRange (c : Cfg) (i : Instr) : Except DecodeError Instr :=
  if i.wellFormed c then .ok i else .error .fieldRange

/-- The whole verdict of rule R85 on a word under `cfg`: a valid word's operation with its fields, or why it is
INVALID. -/
def verdict (c : Cfg) (w : TraceWord) : Except DecodeError Instr := (decode w).bind (inRange c)

/-! ## Encoding -/

/-- The trace word of an operation with its fields, one line per row of rule R84. -/
def encode : Instr → TraceWord
  | .reset => packWord Op.reset.code 0 0 0 0
  | .init md => packWord Op.init.code 0 md 0 0
  | .fill md idx val => packWord Op.fill.code 0 md idx val
  | .start => packWord Op.start.code 0 0 0 0
  | .sample md => packWord Op.sample.code 0 md 0 0
  | .dutyCheck f md idx val => packWord Op.dutyCheck.code (BitVec.ofBool f) md idx val
  | .modeCheck f md val => packWord Op.modeCheck.code (BitVec.ofBool f) md 0 val
  | .iterEnd f md => packWord Op.iterEnd.code (BitVec.ofBool f) md 0 0
  | .yield md => packWord Op.yield.code 0 md 0 0
  | .sigStart md val => packWord Op.sigStart.code 1 md 0 val
  | .sigWait f md val => packWord Op.sigWait.code (BitVec.ofBool f) md 0 val
  | .sigOnEnd md val => packWord Op.sigOnEnd.code 0 md 0 val
  | .sigOffEnd md val => packWord Op.sigOffEnd.code 1 md 0 val
  | .fault md val => packWord Op.fault.code 0 md 0 val

/-! ## The textual form -/

/-- The mnemonic of rule R80. -/
def Op.mnemonic : Op → String
  | .reset => "RESET"
  | .init => "INIT"
  | .fill => "FILL"
  | .start => "START"
  | .sample => "SAMPLE"
  | .dutyCheck => "DUTY_CHECK"
  | .modeCheck => "MODE_CHECK"
  | .iterEnd => "ITER_END"
  | .yield => "YIELD"
  | .sigStart => "SIG_START"
  | .sigWait => "SIG_WAIT"
  | .sigOnEnd => "SIG_ON_END"
  | .sigOffEnd => "SIG_OFF_END"
  | .fault => "FAULT"

/-- `MNEMONIC f=F md=MD idx=IDX val=VAL` with decimal field values (R88), read off the trace word, so that no field is
omitted. -/
def Instr.text (i : Instr) : String :=
  i.op.mnemonic
    ++ " f=" ++ toString (fField (encode i)).toNat
    ++ " md=" ++ toString (mdField (encode i)).toNat
    ++ " idx=" ++ toString (idxField (encode i)).toNat
    ++ " val=" ++ toString (valField (encode i)).toNat

/-! ## The host's view of the opcode table -/

/-- What the decoder reads from a row of spec/opcode_table.json whose `nbits` bits are `w` (every bit above them 0).
Every row has 32 bits, and a trace word is never stored, so there is no byte order to apply (R65, R87). -/
def decodeTableWord (nbits w : Nat) : Option Instr :=
  if w % 2 ^ nbits < 2 ^ 32 then (decode (BitVec.ofNat 32 (w % 2 ^ nbits))).toOption else none

end Sys2Proof
end

