-- ==== Sys2Proof/Machine/State.lean ====
section
/-! DEFINITION. The state of the engine as plain data: the state vector of spec/10_state.md rule R21 with the widths of
rules R22 to R36, the configuration (R38), and the two ends of its ports, the environment's answers to come (R41) and
the events of the last step (R40). -/

namespace Sys2Proof.Machine

/-! ## The values that registers hold -/

/-- The control state `phase`, 4 bits (R22); its codes are `Phase.code`. `reserved k` is the code 11 + k, which no
operation writes and which a state can nevertheless hold (R46, R160). -/
inductive Phase where
  | init | fill | start | sample | duty | mode | sigStart | signal | iterEnd | yield
  | fault
  | reserved (k : Fin 5)
deriving DecidableEq, Repr

/-- The feedback sequencer's state, 2 bits (R31); `reserved` is the code 3. -/
inductive SeqState where
  | idle | on | off | reserved
deriving DecidableEq, Repr

/-- The logical level of the indicator (R35). -/
inductive Level where
  | off | on
deriving DecidableEq, Repr

/-- The electrical level of an output pin (R35, R40). -/
inductive PinLevel where
  | low | high
deriving DecidableEq, Repr

/-- The causes of a fault that rule R190 numbers 1 to 6. These are faults the machine TAKES (R191): the step answers a
next state. -/
inductive FaultCode where
  | configInvalid | periphInitRejected | clockNonmonotonic | timeOverflow | pwmWriteFailed | illegalState
deriving DecidableEq, Repr

/-- A port event (R40), the engine's only effect on the environment. -/
inductive Event where
  | pwmConfigure (carrier resolution : Nat)
  | pwmSetDuty (ch d : Nat)
  | pwmCommit (ch : Nat)
  | indSet (pin : Nat) (level : PinLevel)
  | yieldReq
  | modeChanged (m : ModeNo)
  | trace (w : TraceWord)
deriving DecidableEq, Repr

/-- What the environment presents at the input ports at one step (R41). A step reads only the inputs its rule names. -/
structure Inputs where
  /-- `rst`, the reset request. -/
  rst : Bool
  /-- `clk_us`, the microsecond clock. -/
  clk : Time
  /-- The entropy draw, already mapped to a table value by the OPEN `range_map` (R104). -/
  entropy : Byte
  /-- `pwm_cfg_ok`, the PWM peripheral's answer to PWM_CONFIGURE. -/
  cfgOk : Bool
  /-- `pwm_wr_ok`, the PWM peripheral's answer to a duty write. -/
  wrOk : Bool
deriving DecidableEq, Repr

/-- The DutyTable (R60): the written entries by index. An index that is not listed holds ⊥. -/
abbrev Memory := List Host.Cell

/-! ## The state -/

/-- The state vector of rule R21, the configuration registers of R38, and the model's own three fields for the ports. -/
structure State where
  /-- `cfg`: the read-only configuration registers (R38) and the interval table (R39). -/
  cfg : Cfg
  /-- `phase`, the control state (R22). -/
  phase : Phase
  /-- `fill_idx`, the next entry the table generator writes (R23). -/
  fillIdx : BitVec 17
  /-- `cursor`, the next entry to play (R24). -/
  cursor : Index
  /-- `mode`, the FrequencyMode (R25). -/
  mode : ModeNo
  /-- `next_duty`, the duty deadline (R26). -/
  nextDuty : Time
  /-- `next_mode`, the mode deadline (R27). -/
  nextMode : Time
  /-- `t_iter`, the current iteration's clock sample (R28). -/
  tIter : Time
  /-- `t_last`, the most recent clock sample (R29). -/
  tLast : Time
  /-- `iter_cnt`, the iterations since the last yield (R30). -/
  iterCnt : BitVec 32
  /-- `seq_state`, the sequencer's state (R31). -/
  seqState : SeqState
  /-- `seq_rem`, the pulses whose on-phase has not ended (R32). -/
  seqRem : BitVec 4
  /-- `seq_end`, the end of the current pulse phase (R33). -/
  seqEnd : Time
  /-- `duty_out`, the native duty last written; `none` is ⊥ (R34). Its width NATIVE_W is a parameter, so it is a
  number (notes/assumptions/8.md). -/
  dutyOut : Option Nat
  /-- `ind_level`, the level the engine drives on the indicator; `none` is ⊥ (R35). -/
  indLevel : Option Level
  /-- `fault_code`, the sticky fault register (R36). -/
  faultCode : BitVec 4
  /-- `table`, the DutyTable (R60). -/
  table : Memory
  /-- The model's own: what the environment presents at the coming steps, the next one first (R41; 95_test_vectors.md
  section 3 calls it the script of draws). At a step past its end the free values answer. -/
  env : List Inputs
  /-- The model's own: how many steps have read the inputs, the index of the free values (R13). -/
  drawNo : Nat
  /-- The model's own: the events of the last step, in the order it emitted them (R40, R71). -/
  out : List Event
deriving DecidableEq, Repr

/-- The state right after reset: the values of rule R47, `cfg` an argument of the run (`Cfg.start`), nothing scripted
and no pending event (R222). -/
def State.reset : State where
  cfg := Cfg.start
  phase := .init
  fillIdx := 0
  cursor := 0
  mode := 0
  nextDuty := 0
  nextMode := 0
  tIter := 0
  tLast := 0
  iterCnt := 0
  seqState := .idle
  seqRem := 0
  seqEnd := 0
  dutyOut := none
  indLevel := none
  faultCode := 0
  table := []
  env := []
  drawNo := 0
  out := []

/-! ## How a step can stop

Every fault of spec/60_exceptions.md is TAKEN: it is a next state in phase FAULT (R191, R192), not one of these. -/

/-- Why the machine has no step. -/
inductive Fault where
  /-- Raised by `exec` of an operation that `next_op` does not select in this state: "every operation runs in the phase
  that selects it and in no other" (R204), so the engine has no such step. `step` never raises it. Safe. -/
  | notSelected
deriving DecidableEq, Repr

/-- Why the model gives no meaning. -/
inductive Refusal where
  /-- An instruction without a meaning: no arm of `exec` answers it. Safe. -/
  | notModelled (mnemonic : String)
  /-- Raised by FILL on an entropy draw outside [MIN, MAX]: "no move: the model has no step for an out-of-range draw"
  (R208, U3). Only a scripted draw can be out of range; a free one never is. Safe. -/
  | entropyOutOfRange
  /-- Raised by FAULT with a code other than 1..6: the codes 0 and 7..15 are "never raised" (R84, R190, U10). `step`
  never raises it. Safe. -/
  | faultCodeNeverRaised
deriving DecidableEq, Repr

end Sys2Proof.Machine
end

