-- ==== Sys2Proof/Machine/Operands.lean ====
section
/-! DEFINITION. What the operations read besides registers: the codes of register values (spec/10_state.md), the inputs
of the step (R41), and the functions of spec/42_scaler.md and spec/43_mode_scheduler.md. -/

namespace Sys2Proof.Machine

/-! ## Codes of register values -/

/-- The 4-bit code of `phase` (R22). -/
def Phase.code : Phase → BitVec 4
  | .init => 0
  | .fill => 1
  | .start => 2
  | .sample => 3
  | .duty => 4
  | .mode => 5
  | .sigStart => 6
  | .signal => 7
  | .iterEnd => 8
  | .yield => 9
  | .fault => 10
  | .reserved k => BitVec.ofNat 4 (11 + k.val)

/-- The 2-bit code of `seq_state` (R31). -/
def SeqState.code : SeqState → BitVec 2
  | .idle => 0
  | .on => 1
  | .off => 2
  | .reserved => 3

/-- The number of a fault cause (R190). -/
def FaultCode.number : FaultCode → Nat
  | .configInvalid => 1
  | .periphInitRejected => 2
  | .clockNonmonotonic => 3
  | .timeOverflow => 4
  | .pwmWriteFailed => 5
  | .illegalState => 6

/-- The value of `fault_code` for a cause (R36, R190). -/
def FaultCode.code (c : FaultCode) : BitVec 4 := BitVec.ofNat 4 c.number

/-- The VAL field of the FAULT word for a cause: `zext_8(code)` (R191). -/
def FaultCode.val (c : FaultCode) : Byte := BitVec.ofNat 8 c.number

/-- The cause a FAULT word's VAL field names; 0 and 7..255 name none (R84, R190). -/
def FaultCode.ofVal (v : Byte) : Option FaultCode :=
  match v.toNat with
  | 1 => some .configInvalid
  | 2 => some .periphInitRejected
  | 3 => some .clockNonmonotonic
  | 4 => some .timeOverflow
  | 5 => some .pwmWriteFailed
  | 6 => some .illegalState
  | _ => none

/-! ## Status outputs -/

/-- The status outputs `phase`, `mode` and `fault_code` (R43). -/
structure Status where
  phase : BitVec 4
  mode : ModeNo
  faultCode : BitVec 4
deriving DecidableEq, Repr

/-- What the status outputs show (R43). -/
def State.status (s : State) : Status := ⟨s.phase.code, s.mode, s.faultCode⟩

/-! ## The inputs of the step -/

/-- What the environment presents at step number `k` when nothing is scripted: the free values (R13), the entropy one
placed in [MIN, MAX] (R104). -/
def freeInputs (c : Cfg) (k : Nat) : Inputs where
  rst := Config.freeRst k
  clk := Config.freeClk k
  entropy := BitVec.ofNat 8 (c.min + (Config.freeEntropy k (c.max - c.min)).val)
  cfgOk := Config.freeCfgOk k
  wrOk := Config.freeWrOk k

/-- What the environment presents at this step (R41). -/
def State.inputs (s : State) : Inputs :=
  match s.env with
  | e :: _ => e
  | [] => freeInputs s.cfg s.drawNo

/-! ## The functions used inside operations -/

/-- `scale(v) = (v * NATIVE_MAX) div 255`, the product exact, rounded toward zero (R120). -/
def scale (nativeMax : Nat) (v : Byte) : Nat := v.toNat * nativeMax / 255

/-- `advance(m) = (m + 1) mod M` (R130). -/
def advance (modes : Nat) (m : ModeNo) : ModeNo := BitVec.ofNat 3 ((m.toNat + 1) % modes)

/-- `interval(m) = INTERVAL[m]` (R131). The fallback 0 is never used where `cfg` is valid and `m < M`. -/
def interval (c : Cfg) (m : ModeNo) : Nat := c.interval.getD m.toNat 0

/-- The signal count of a mode: its ordinal counted from 1 (R133). -/
def signalCount (m : ModeNo) : Nat := m.toNat + 1

/-- `(i + 1) mod N`, the cursor's advance (R24, R143). -/
def nextCursor (n : Nat) (i : Index) : Index := BitVec.ofNat 16 ((i.toNat + 1) % n)

/-- A deadline: a time plus a duration (R147), where `fitsTime` has been checked. -/
def deadline (t : Time) (duration : Nat) : Time := BitVec.ofNat 64 (t.toNat + duration)

/-- `level()`: the electrical level of a logical level (R35). -/
def pinLevel (c : Cfg) : Level → PinLevel
  | .on => if c.indActiveHigh then .high else .low
  | .off => if c.indActiveHigh then .low else .high

end Sys2Proof.Machine
end

