-- ==== Sys2Proof/Machine/Flags.lean ====
section
/-! DEFINITION. The conditions that an operation evaluates and no register holds (spec/10_state.md rule R37): the two
due conditions, the end of a pulse phase, the yield cadence, and the overflow check of a deadline sum. They are visible
only as the F bit of the trace word (R84). -/

namespace Sys2Proof.Machine

/-- `DUE_D = (t_iter >= next_duty)`, unsigned over 64 bits (R37, R143). -/
abbrev State.DutyDue (s : State) : Prop := s.nextDuty ≤ s.tIter

/-- `DUE_M = (t_iter >= next_mode)`, unsigned over 64 bits (R37, R144). -/
abbrev State.ModeDue (s : State) : Prop := s.nextMode ≤ s.tIter

/-- `iter_cnt + 1 = K`: a YIELD follows this ITER_END (R145). -/
abbrev State.YieldFollows (s : State) : Prop := s.iterCnt.toNat + 1 = s.cfg.k

/-- `t < seq_end`: the pulse phase has not ended at the sample `t` (R160, R172). -/
abbrev State.PulseRunning (s : State) (t : Time) : Prop := t < s.seqEnd

/-- The sample is not below the previous one (R141). -/
abbrev State.ClockOk (s : State) : Prop := s.tLast ≤ s.inputs.clk

/-- The deadline sum is at most `2^64 - 1` (R147). -/
abbrev FitsTime (t : Time) (duration : Nat) : Prop := t.toNat + duration ≤ maxTime

end Sys2Proof.Machine
end

