-- ==== Sys2Proof/Machine/Ops.lean ====
section
/-! DEFINITION. The operations that the meanings share: access to the DutyTable (spec/20_memory.md), the validity of
`cfg` (R101) and of a state (R46), the ports (R40, R41), taking a fault (R191), the selection of the next operation
(R160), and the checks every operation begins with (R200). -/

namespace Sys2Proof.Machine

/-- What an operation answers. -/
abbrev Result := Host.Outcome State Fault Refusal

/-! ## The DutyTable -/

/-- The written entry at index `i`; `none` is ⊥ (R60). -/
def Memory.read : Memory → Nat → Option Byte
  | [], _ => none
  | (a, b) :: m, i => if a = i then some b else Memory.read m i

/-- The table with `v` at index `i`, in canonical form if it was (R62). -/
def Memory.write : Memory → Nat → Byte → Memory
  | [], i, v => [(i, v)]
  | (a, b) :: m, i, v =>
    if i < a then (i, v) :: (a, b) :: m
    else if i = a then (i, v) :: m
    else (a, b) :: Memory.write m i v

/-- The indices rise strictly from `lo` on. -/
def Memory.risesFrom : Nat → Memory → Bool
  | _, [] => true
  | lo, (a, _) :: m => decide (lo ≤ a) && Memory.risesFrom (a + 1) m

/-- The one canonical form: strictly rising indices. An unlisted index reads as ⊥, which is no byte, so no entry can
equal what an unlisted index reads as. -/
def Memory.wf (m : Memory) : Bool := Memory.risesFrom 0 m

/-- The list begins with the entries `lo`, `lo + 1`, ... up to `n - 1`. -/
def Memory.runsTo (n : Nat) : Nat → Memory → Bool
  | lo, [] => decide (n ≤ lo)
  | lo, (a, _) :: m => if n ≤ lo then true else decide (a = lo) && Memory.runsTo n (lo + 1) m

/-- Every entry below `n` is written: `table[i] != ⊥` for every `i < n` (R46 item 3), read off the canonical form. -/
def Memory.full (n : Nat) (m : Memory) : Bool := Memory.runsTo n 0 m

/-- `MemRead(i, 1)`: the entry, or `none` where rule R61 raises ILLEGAL_STATE (an index `>= N`, or ⊥). -/
def State.memRead (s : State) (i : Index) : Option Byte :=
  if i.toNat < s.cfg.n then s.table.read i.toNat else none

/-- `MemWrite(i, 1, v)` for `i < N` and `MIN <= v <= MAX`; rule R62 defines no other write, `none`. -/
def State.memWrite (s : State) (i : Nat) (v : Byte) : Option Memory :=
  if i < s.cfg.n ∧ s.cfg.min ≤ v.toNat ∧ v.toNat ≤ s.cfg.max then some (s.table.write i v) else none

/-! ## Validity -/

/-- `VALID(cfg)`: the eight items of rule R101. -/
abbrev Valid (c : Cfg) : Prop :=
  (1 ≤ c.n ∧ c.n ≤ 65536) ∧
  (c.min ≤ c.max ∧ c.max ≤ 255) ∧
  (1 ≤ c.m ∧ c.m ≤ 8 ∧ c.interval.length = c.m) ∧
  (∀ x ∈ c.interval, 1 ≤ x ∧ x ≤ maxDuration) ∧
  ((1 ≤ c.msi ∧ c.msi ≤ maxDuration) ∧ (1 ≤ c.tOn ∧ c.tOn ≤ maxDuration) ∧ (1 ≤ c.tOff ∧ c.tOff ≤ maxDuration)) ∧
  (c.dOff ≤ maxDuration ∧ c.mOff ≤ maxDuration) ∧
  (1 ≤ c.nativeMax ∧ c.nativeMax ≤ 2 ^ c.nativeW - 1) ∧
  (1 ≤ c.k ∧ c.k ≤ maxDuration)

/-- `phase <= 10` (R46 item 1). -/
def Phase.legal : Phase → Bool
  | .reserved _ => false
  | _ => true

/-- The phases that need a full table (R46 item 3). -/
def Phase.inLoop : Phase → Bool
  | .sample | .duty | .mode | .sigStart | .signal | .iterEnd | .yield => true
  | .init | .fill | .start | .fault | .reserved _ => false

/-- The phases of the feedback signal (R46 item 6, R175). -/
def Phase.inSignal : Phase → Bool
  | .sigStart | .signal => true
  | .init | .fill | .start | .sample | .duty | .mode | .iterEnd | .yield | .fault | .reserved _ => false

/-- R46 item 2. -/
abbrev State.RangesOk (s : State) : Prop :=
  s.mode.toNat < s.cfg.m ∧ s.cursor.toNat < s.cfg.n ∧ s.fillIdx.toNat ≤ s.cfg.n ∧ s.iterCnt.toNat < s.cfg.k ∧
  s.seqState ≠ .reserved ∧ s.seqRem.toNat ≤ s.cfg.m

/-- R46 item 3. -/
abbrev State.TableOk (s : State) : Prop :=
  (s.phase = .fill → s.fillIdx.toNat < s.cfg.n) ∧
  (s.phase = .start → s.fillIdx.toNat = s.cfg.n) ∧
  (s.phase.inLoop = true → s.fillIdx.toNat = s.cfg.n ∧ s.table.full s.cfg.n = true)

/-- R46 items 4, 5 and 6. -/
abbrev State.SequencerOk (s : State) : Prop :=
  (s.phase = .sigStart → s.seqState = .idle ∧ 1 ≤ s.seqRem.toNat) ∧
  (s.phase = .signal → (s.seqState = .on ∨ s.seqState = .off) ∧ 1 ≤ s.seqRem.toNat) ∧
  (s.phase.inSignal = false → s.seqState = .idle)

/-- `WF(s)`: "all of the following hold, with `cfg` valid", the eight items of rule R46. -/
abbrev State.WF (s : State) : Prop :=
  Valid s.cfg ∧
  s.phase.legal = true ∧
  s.RangesOk ∧
  s.TableOk ∧
  s.SequencerOk ∧
  s.tIter ≤ s.tLast ∧
  (s.phase = .fault ↔ s.faultCode ≠ 0)

/-! ## The ports -/

/-- The state a step starts to write: the step's inputs are used up and no event has been emitted yet. -/
def State.tick (s : State) : State := { s with env := s.env.tail, drawNo := s.drawNo + 1, out := [] }

/-- `Emit(e)` (R12, R71). -/
def State.emit (s : State) (e : Event) : State := { s with out := s.out ++ [e] }

/-- `Emit(TRACE(w))` of the operation the step performed (R81). -/
def State.trace (s : State) (i : Instr) : State := s.emit (.trace (encode i))

/-- Drive the indicator: `ind_level <- l; Emit(IND_SET(IND_PIN, level(l)))` (R35). -/
def State.drive (s : State) (l : Level) : State :=
  { s with indLevel := some l }.emit (.indSet s.cfg.indPin (pinLevel s.cfg l))

/-- Apply a native duty: `duty_out <- d` and the event pair in its order (R122, R235). -/
def State.applyDuty (s : State) (d : Nat) : State :=
  ({ s with dutyOut := some d }.emit (.pwmSetDuty s.cfg.pwmChannel d)).emit (.pwmCommit s.cfg.pwmChannel)

/-! ## Taking a fault, and the return from one -/

/-- `raise Fault(code)`, the engine's trap entry (R191): the code and the phase, nothing else saved, and the FAULT word
with the `mode` bits at the fault. The state it is given already holds what the rule wrote before the `raise`. -/
def State.raise (s : State) (c : FaultCode) : State :=
  { s with faultCode := c.code, phase := .fault }.trace (.fault s.mode c.val)

/-- The state RESET leaves, the only way out of phase FAULT (R192, R202): the values of rule R47, `cfg` unchanged
(R220), and the ports as the step left them. -/
def State.restart (s : State) : State :=
  { State.reset with cfg := s.cfg, env := s.env, drawNo := s.drawNo, out := s.out }

/-! ## The next operation -/

/-- `next_op(s, t)` with the step's own clock sample (R160): a reserved phase raises ILLEGAL_STATE, which is the
operation FAULT; in phase FAULT there is none. RESET is not selected here (R221). -/
def State.nextOp (s : State) : Option Op :=
  match s.phase with
  | .init => some .init
  | .fill => some .fill
  | .start => some .start
  | .sample => some .sample
  | .duty => some .dutyCheck
  | .mode => some .modeCheck
  | .sigStart => some .sigStart
  | .signal =>
    if s.PulseRunning s.inputs.clk then some .sigWait
    else if s.seqState = .on then some .sigOnEnd
    else some .sigOffEnd
  | .iterEnd => some .iterEnd
  | .yield => some .yield
  | .fault => none
  | .reserved _ => some .fault

/-! ## The checks operations begin with, in the order of rule R200 -/

/-- The operation runs only where `next_op` selects it (R204). -/
def selectedOnly (o : Op) (s : State) (body : Result) : Result :=
  if s.nextOp = some o then body else .fault .notSelected

/-- `checkWF`: `if not WF(s) then raise Fault(ILLEGAL_STATE)` (R46, R196). -/
def checkWF (s : State) (body : Result) : Result :=
  if s.WF then body else .next (s.tick.raise .illegalState)

/-- `t <- Sample()`: `if t < t_last then raise Fault(CLOCK_NONMONOTONIC)` (R141, R195). -/
def withSample (s : State) (body : Time → Result) : Result :=
  if s.ClockOk then body s.inputs.clk else .next (s.tick.raise .clockNonmonotonic)

/-- `raise Fault(TIME_OVERFLOW)` unless the deadline sums fit, before any effect (R147, R197). -/
def unlessOverflow (s : State) (fits : Prop) [Decidable fits] (body : Result) : Result :=
  if fits then body else .next (s.tick.raise .timeOverflow)

end Sys2Proof.Machine
end

