-- ==== Sys2Proof/Machine/Generator.lean ====
section
/-! DEFINITION. The meanings of INIT, FILL and START: spec/41_table_generator.md. -/

namespace Sys2Proof.Machine

/-- INIT (R102; faults R193, R194). It does not check `WF`. -/
def execInit (s : State) : Result :=
  selectedOnly .init s <|
  if Valid s.cfg then
    let configured := s.tick.emit (.pwmConfigure s.cfg.carrierFreq s.cfg.resolution)
    if s.inputs.cfgOk then
      .next ({ configured.drive .off with fillIdx := 0, phase := .fill }.trace (.init s.mode))
    else .next (configured.raise .periphInitRejected)
  else .next (s.tick.raise .configInvalid)

/-- FILL (R103) with the entropy draw of rule R104. -/
def execFill (s : State) : Result :=
  selectedOnly .fill s <| checkWF s <|
  match s.memWrite s.fillIdx.toNat s.inputs.entropy with
  | none => .refused .entropyOutOfRange
  | some table =>
    .next ({ s.tick with
      table := table
      fillIdx := BitVec.ofNat 17 (s.fillIdx.toNat + 1)
      phase := if s.fillIdx.toNat + 1 = s.cfg.n then .start else s.phase
    }.trace (.fill s.mode (s.fillIdx.setWidth 16) s.inputs.entropy))

/-- START (R106). -/
def execStart (s : State) : Result :=
  selectedOnly .start s <| checkWF s <| withSample s fun t =>
  unlessOverflow s (FitsTime t s.cfg.dOff ∧ FitsTime t s.cfg.mOff) <|
  .next ({ s.tick with
    tLast := t
    tIter := t
    nextDuty := deadline t s.cfg.dOff
    nextMode := deadline t s.cfg.mOff
    mode := 0
    cursor := 0
    iterCnt := 0
    phase := .sample
  }.trace .start)

end Sys2Proof.Machine
end

