-- ==== Sys2Proof/Machine/Loop.lean ====
section
/-! DEFINITION. The meanings of SAMPLE, DUTY_CHECK, MODE_CHECK, ITER_END and YIELD: spec/44_update_loop.md. -/

namespace Sys2Proof.Machine

/-- SAMPLE (R142). -/
def execSample (s : State) : Result :=
  selectedOnly .sample s <| checkWF s <| withSample s fun t =>
  .next ({ s.tick with tLast := t, tIter := t, phase := .duty }.trace (.sample s.mode))

/-- The state writes and events of a DUTY_CHECK that fires on the entry `v` (R143, R122). -/
def State.dutyFired (s : State) (v : Byte) : State :=
  { { s.tick with
        nextDuty := deadline s.tIter (interval s.cfg s.mode)
        cursor := nextCursor s.cfg.n s.cursor
      }.applyDuty (scale s.cfg.nativeMax v) with phase := .mode }.trace (.dutyCheck true s.mode s.cursor v)

/-- DUTY_CHECK (R143). A failed write is raised after all of the step's effects (R198). The `none` arm is never reached
where `checkWF` passed (R61, R200). -/
def execDutyCheck (s : State) : Result :=
  selectedOnly .dutyCheck s <| checkWF s <|
  if s.DutyDue then
    unlessOverflow s (FitsTime s.tIter (interval s.cfg s.mode)) <|
    match s.memRead s.cursor with
    | none => .next (s.tick.raise .illegalState)
    | some v => .next (if s.inputs.wrOk then s.dutyFired v else (s.dutyFired v).raise .pwmWriteFailed)
  else .next ({ s.tick with phase := .mode }.trace (.dutyCheck false s.mode 0 0))

/-- MODE_CHECK (R144). -/
def execModeCheck (s : State) : Result :=
  selectedOnly .modeCheck s <| checkWF s <|
  if s.ModeDue then
    unlessOverflow s (FitsTime s.tIter s.cfg.msi) <|
    let m := advance s.cfg.m s.mode
    .next ({ { s.tick with
          nextMode := deadline s.tIter s.cfg.msi
          mode := m
          seqRem := BitVec.ofNat 4 (signalCount m)
        }.emit (.modeChanged m) with phase := .sigStart }.trace (.modeCheck true m (BitVec.ofNat 8 (signalCount m))))
  else .next ({ s.tick with phase := .iterEnd }.trace (.modeCheck false s.mode 0))

/-- ITER_END (R145). -/
def execIterEnd (s : State) : Result :=
  selectedOnly .iterEnd s <| checkWF s <|
  if s.YieldFollows then
    .next ({ s.tick with iterCnt := 0, phase := .yield }.trace (.iterEnd true s.mode))
  else
    .next ({ s.tick with
      iterCnt := BitVec.ofNat 32 (s.iterCnt.toNat + 1), phase := .sample }.trace (.iterEnd false s.mode))

/-- YIELD (R146). -/
def execYield (s : State) : Result :=
  selectedOnly .yield s <| checkWF s <|
  .next ({ s.tick.emit .yieldReq with phase := .sample }.trace (.yield s.mode))

end Sys2Proof.Machine
end

