-- ==== Sys2Proof/Machine/Signaler.lean ====
section
/-! DEFINITION. The meanings of SIG_START, SIG_WAIT, SIG_ON_END and SIG_OFF_END: spec/45_feedback_signaler.md. -/

namespace Sys2Proof.Machine

/-- SIG_START (R171). -/
def execSigStart (s : State) : Result :=
  selectedOnly .sigStart s <| checkWF s <| withSample s fun t =>
  unlessOverflow s (FitsTime t s.cfg.tOn) <|
  .next ({ { s.tick with tLast := t }.drive .on with
    seqState := .on
    seqEnd := deadline t s.cfg.tOn
    phase := .signal
  }.trace (.sigStart s.mode (s.seqRem.setWidth 8)))

/-- SIG_WAIT (R172). -/
def execSigWait (s : State) : Result :=
  selectedOnly .sigWait s <| checkWF s <| withSample s fun t =>
  .next ({ s.tick with tLast := t }.trace (.sigWait (s.seqState == SeqState.on) s.mode (s.seqRem.setWidth 8)))

/-- SIG_ON_END (R173). The last pulse has no off-duration, so no deadline sum. -/
def execSigOnEnd (s : State) : Result :=
  selectedOnly .sigOnEnd s <| checkWF s <| withSample s fun t =>
  let rem := s.seqRem - 1
  unlessOverflow s (rem ≠ 0 → FitsTime t s.cfg.tOff) <|
  let ended := { { s.tick with tLast := t }.drive .off with seqRem := rem }
  if rem = 0 then
    .next ({ ended with seqState := .idle, phase := .iterEnd }.trace (.sigOnEnd s.mode (rem.setWidth 8)))
  else
    .next ({ ended with
      seqState := .off, seqEnd := deadline t s.cfg.tOff }.trace (.sigOnEnd s.mode (rem.setWidth 8)))

/-- SIG_OFF_END (R174). -/
def execSigOffEnd (s : State) : Result :=
  selectedOnly .sigOffEnd s <| checkWF s <| withSample s fun t =>
  unlessOverflow s (FitsTime t s.cfg.tOn) <|
  .next ({ { s.tick with tLast := t }.drive .on with
    seqState := .on
    seqEnd := deadline t s.cfg.tOn
  }.trace (.sigOffEnd s.mode (s.seqRem.setWidth 8)))

end Sys2Proof.Machine
end

