-- ==== Sys2Proof/Machine/System.lean ====
section
/-! DEFINITION. The meanings of RESET (spec/70_reset_and_hazards.md) and FAULT (spec/60_exceptions.md). -/

namespace Sys2Proof.Machine

/-- RESET (R220): from any state, without a check, without a fault. -/
def execReset (s : State) : Result := .next (s.tick.restart.trace .reset)

/-- FAULT: `raise Fault(code)` with the code its VAL field names (R191). In phase FAULT no operation runs (R192); the
codes 0 and 7..255 are never raised (R190). -/
def execFault (val : Byte) (s : State) : Result :=
  if s.phase = .fault then .fault .notSelected
  else
    match FaultCode.ofVal val with
    | none => .refused .faultCodeNeverRaised
    | some c => .next (s.tick.raise c)

end Sys2Proof.Machine
end

