-- ==== Sys2Proof/Machine/Dispatch.lean ====
section
/-! DEFINITION. One arm per operation. The fields an arm does not pass on (MD, IDX, VAL, F) are what the trace word says
the operation DID (spec/30_encoding.md rules R81, R84): outputs of the step, not operands (notes/assumptions/1.md). -/

namespace Sys2Proof.Machine

/-- What performing the operation `i` does in the state `s`. -/
def exec (i : Instr) (s : State) : Host.Outcome State Fault Refusal :=
  match i with
  | .reset => Sys2Proof.Machine.execReset s
  | .init _ => Sys2Proof.Machine.execInit s
  | .fill _ _ _ => Sys2Proof.Machine.execFill s
  | .start => Sys2Proof.Machine.execStart s
  | .sample _ => Sys2Proof.Machine.execSample s
  | .dutyCheck _ _ _ _ => Sys2Proof.Machine.execDutyCheck s
  | .modeCheck _ _ _ => Sys2Proof.Machine.execModeCheck s
  | .iterEnd _ _ => Sys2Proof.Machine.execIterEnd s
  | .yield _ => Sys2Proof.Machine.execYield s
  | .sigStart _ _ => Sys2Proof.Machine.execSigStart s
  | .sigWait _ _ _ => Sys2Proof.Machine.execSigWait s
  | .sigOnEnd _ _ => Sys2Proof.Machine.execSigOnEnd s
  | .sigOffEnd _ _ => Sys2Proof.Machine.execSigOffEnd s
  | .fault _ val => Sys2Proof.Machine.execFault val s

end Sys2Proof.Machine
end

