-- ==== Sys2Proof/Machine/Select.lean ====
section
/-! DEFINITION. Which operation with which fields the next step performs (spec/44_update_loop.md rule R160,
spec/30_encoding.md rule R84), and how a state is set up so that a given one is performed. The engine fetches nothing
(R80): its `phase`, its registers and the inputs of the step select the operation. -/

namespace Sys2Proof.Machine

/-! ## The selected operation -/

/-- The fields that rule R84 gives the trace word of an operation performed without a fault in the state `s`: what the
engine is about to report. -/
def State.fieldsOf (s : State) : Op → Instr
  | .reset => .reset
  | .init => .init s.mode
  | .fill => .fill s.mode (s.fillIdx.setWidth 16) s.inputs.entropy
  | .start => .start
  | .sample => .sample s.mode
  | .dutyCheck =>
    if s.DutyDue then .dutyCheck true s.mode s.cursor ((s.memRead s.cursor).getD 0)
    else .dutyCheck false s.mode 0 0
  | .modeCheck =>
    if s.ModeDue then
      .modeCheck true (advance s.cfg.m s.mode) (BitVec.ofNat 8 (signalCount (advance s.cfg.m s.mode)))
    else .modeCheck false s.mode 0
  | .iterEnd => .iterEnd (decide s.YieldFollows) s.mode
  | .yield => .yield s.mode
  | .sigStart => .sigStart s.mode (s.seqRem.setWidth 8)
  | .sigWait => .sigWait (s.seqState == SeqState.on) s.mode (s.seqRem.setWidth 8)
  | .sigOnEnd => .sigOnEnd s.mode ((s.seqRem - 1).setWidth 8)
  | .sigOffEnd => .sigOffEnd s.mode (s.seqRem.setWidth 8)
  | .fault => .fault s.mode FaultCode.illegalState.val

/-- The operation the step performs: RESET whenever `rst` is asserted, `next_op` otherwise, none in phase FAULT
(R221, R160). -/
def State.selected (s : State) : Option Instr :=
  if s.inputs.rst then some .reset else s.nextOp.map s.fieldsOf

/-- The trace word of the selected operation. -/
def State.selectedWord (s : State) : Option TraceWord := s.selected.map encode

/-! ## Setting a state up to perform a given operation

`next_op` reads `phase`, and the operation begins by checking `WF`; so performing an operation next takes its phase, a
well-formed state around it, and the inputs its rule reads. What `WF` requires to be equal or bounded is set to the
least such value; every time is set to 0, so that no deadline sum overflows. -/

/-- `count` entries `v` from the index `lo` on. -/
def entriesFrom (v : Byte) : Nat → Nat → Memory
  | _, 0 => []
  | lo, count + 1 => (lo, v) :: entriesFrom v (lo + 1) count

/-- A table value of [MIN, MAX]: `v` itself if it is one. -/
def tableValue (c : Cfg) (v : Byte) : Byte :=
  if c.min ≤ v.toNat ∧ v.toNat ≤ c.max then v else BitVec.ofNat 8 c.min

/-- A mode below M: `md` itself if it is one. -/
def modeOf (c : Cfg) (md : ModeNo) : ModeNo := if md.toNat < c.m then md else 0

/-- An index below N: `i` itself if it is one. -/
def indexOf (c : Cfg) (i : Index) : Index := if i.toNat < c.n then i else 0

/-- A pulse count of `lo`..M: `v` itself if it is one. -/
def countOf (c : Cfg) (v : Nat) : BitVec 4 := if 1 ≤ v ∧ v ≤ c.m then BitVec.ofNat 4 v else 1

/-- The next step finds these inputs. -/
def State.given (s : State) (e : Inputs) : State := { s with env := e :: s.env }

/-- Quiet inputs: no reset request, the clock at 0, a table value, and both peripheral answers true. -/
def quietInputs (c : Cfg) (v : Byte) : Inputs where
  rst := false
  clk := 0
  entropy := tableValue c v
  cfgOk := true
  wrOk := true

/-- A well-formed state in phase `p` outside a signal, mode `md`, the table filled with `v`, every time 0. -/
def State.readied (s : State) (p : Phase) (md : ModeNo) (v : Byte) : State :=
  { s with
    phase := p
    faultCode := 0
    mode := modeOf s.cfg md
    cursor := 0
    iterCnt := 0
    fillIdx := BitVec.ofNat 17 s.cfg.n
    table := entriesFrom (tableValue s.cfg v) 0 s.cfg.n
    tIter := 0
    tLast := 0
    seqState := .idle
    seqRem := 0 }.given (quietInputs s.cfg v)

/-- `s` set up so that the next step raises the fault that `val` names, with MD = `md` where a state can show it. A code
that is never raised (R190) gets ILLEGAL_STATE. -/
def State.readiedFault (s : State) (md : ModeNo) (val : Byte) : State :=
  match FaultCode.ofVal val with
  | some .configInvalid =>
    { s with phase := .init, faultCode := 0, mode := md, cfg := { s.cfg with n := 0 } }.given (quietInputs s.cfg 0)
  | some .periphInitRejected =>
    { s with phase := .init, faultCode := 0, mode := md }.given { quietInputs s.cfg 0 with cfgOk := false }
  | some .clockNonmonotonic => { s.readied .sample md 0 with tLast := 1 }
  | some .timeOverflow =>
    { s.readied .duty md 0 with nextDuty := 0, tIter := BitVec.allOnes 64, tLast := BitVec.allOnes 64 }
  | some .pwmWriteFailed =>
    { { s with nextDuty := 0 }.readied .duty md 0 with
      env := { quietInputs s.cfg 0 with wrOk := false } :: s.env }
  | some .illegalState | none =>
    { s with phase := .reserved 0, faultCode := 0, mode := md }.given (quietInputs s.cfg 0)

/-- `s` set up so that the next step performs the operation of `i`, and reports exactly `i` where `i` is well formed
for the configuration. -/
def State.poised (s : State) (i : Instr) : State :=
  match i with
  | .reset => s.given { quietInputs s.cfg 0 with rst := true }
  | .init md => { s with phase := .init, faultCode := 0, mode := md }.given (quietInputs s.cfg 0)
  | .fill md idx val =>
    { s.readied .fill md val with
      fillIdx := (indexOf s.cfg idx).setWidth 17
      table := entriesFrom (tableValue s.cfg val) 0 (indexOf s.cfg idx).toNat }
  | .start => s.readied .start 0 0
  | .sample md => s.readied .sample md 0
  | .dutyCheck f md idx val =>
    { s.readied .duty md val with
      cursor := if f then indexOf s.cfg idx else 0
      nextDuty := if f then 0 else 1 }
  | .modeCheck f md _ =>
    { s.readied .mode md 0 with
      mode :=
        if f then BitVec.ofNat 3 (((modeOf s.cfg md).toNat + (s.cfg.m - 1)) % s.cfg.m) else modeOf s.cfg md
      nextMode := if f then 0 else 1 }
  | .iterEnd f md =>
    { s.readied .iterEnd md 0 with iterCnt := if f then BitVec.ofNat 32 (s.cfg.k - 1) else 0 }
  | .yield md => s.readied .yield md 0
  | .sigStart md val => { s.readied .sigStart md 0 with seqRem := countOf s.cfg val.toNat }
  | .sigWait f md val =>
    { s.readied .signal md 0 with
      seqState := if f then .on else .off
      seqRem := countOf s.cfg val.toNat
      seqEnd := 1 }
  | .sigOnEnd md val =>
    { s.readied .signal md 0 with seqState := .on, seqRem := countOf s.cfg (val.toNat + 1), seqEnd := 0 }
  | .sigOffEnd md val =>
    { s.readied .signal md 0 with seqState := .off, seqRem := countOf s.cfg val.toNat, seqEnd := 0 }
  | .fault md val => s.readiedFault md val

end Sys2Proof.Machine
end

