-- ==== Sys2Proof/Machine/Step.lean ====
section
/-! DEFINITION. One step of the engine: it performs the selected operation (spec/44_update_loop.md rule R160 and
spec/70_reset_and_hazards.md rule R221); and the host's way of making a given operation the next one. -/

namespace Sys2Proof.Machine

/-- One step. In phase FAULT without `rst` no operation runs and no event is emitted (R192): the step's inputs pass
unread and nothing else changes. -/
def step (s : State) : Host.Outcome State Fault Refusal :=
  match s.selected with
  | some i => exec i s
  | none => .next s.tick

/-- `s` with the operation of the word `w` of an `nbits`-bit row of spec/opcode_table.json made the next one. The engine
fetches no instructions (R80, D1), so the word is not stored: the state is set up so that `next_op` selects its operation
(notes/assumptions/4.md). A word the decoder refuses changes nothing. -/
def State.withFetchWord (s : State) (nbits w : Nat) : State :=
  match decodeTableWord nbits w with
  | some i => s.poised i
  | none => s

end Sys2Proof.Machine
end

