-- ==== Sys2Proof/Safety.lean ====
section
/-! DEFINITION. The terms that claims are stated in: the launch premises of spec/70_reset_and_hazards.md rule R222, the
invariant of every run, runs of the update loop with the firings counted, and what a step's events hold. -/

namespace Sys2Proof.Machine

/-! ## Launch premises (R222) -/

/-- `NoFault(s)`: `s.fault_code = 0`. -/
abbrev NoFault (s : State) : Prop := s.faultCode = 0

/-- `ResetState(cfg, s)`: `s` holds exactly the values of rule R47. The ports are no part of them. -/
def ResetState (c : Cfg) (s : State) : Prop :=
  s = { State.reset with cfg := c, env := s.env, drawNo := s.drawNo, out := s.out }

/-! ## The invariant -/

/-- What every step keeps. It has one field per promise that the spec makes of every reachable state. -/
structure Inv (s : State) : Prop where
  /-- The DutyTable is in its canonical form. -/
  canonical : s.table.wf = true
  /-- No reserved phase (R22). -/
  legal : s.phase.legal = true
  /-- Phase FAULT and a fault code other than 0 go together (R46 item 8). -/
  faulted : s.phase = .fault ↔ s.faultCode ≠ 0
  /-- The iteration's sample is not above the last one (R46 item 7). -/
  timeOrder : s.tIter ≤ s.tLast
  /-- Phase INIT holds the reset values: only RESET enters it. -/
  atInit : s.phase = .init → ResetState s.cfg s
  /-- Every phase but INIT and FAULT is well formed (R46, R196). -/
  wellFormed : s.phase ≠ .init → s.phase ≠ .fault → s.WF
  /-- The written entries are below `fill_idx` and in [MIN, MAX] (R107). -/
  tableBounds : ∀ i v, s.table.read i = some v → i < s.fillIdx.toNat ∧ s.cfg.min ≤ v.toNat ∧ v.toNat ≤ s.cfg.max
  /-- Every entry below `fill_idx` is written (R23). -/
  tableFilled : ∀ i, i < s.fillIdx.toNat → s.table.read i ≠ none
  /-- The applied native duty is in 0..NATIVE_MAX (R34). -/
  dutyBound : ∀ d, s.dutyOut = some d → d ≤ s.cfg.nativeMax
  /-- The indicator is on exactly during a pulse's on-phase (R35, R171 to R174). -/
  indicator : s.phase ≠ .init → s.phase ≠ .fault →
    s.indLevel = some (if s.phase = .signal ∧ s.seqState = .on then .on else .off)
  /-- The signal count is mode + 1 and only falls (R133, R32). -/
  pulses : s.phase ≠ .init → s.phase ≠ .fault →
    (s.phase = .sigStart → s.seqRem.toNat = signalCount s.mode) ∧
    (s.phase = .signal → s.seqState = .on → s.seqRem.toNat ≤ signalCount s.mode) ∧
    (s.phase = .signal → s.seqState = .off → s.seqRem.toNat < signalCount s.mode) ∧
    (s.phase.inSignal = false → s.seqRem = 0)
  /-- The last sample of a running signal is before the end of its pulse phase (R172). -/
  pulseEnd : s.phase = .signal → s.tLast < s.seqEnd

/-! ## A step's ports -/

/-- `s` after a step that emitted `events` and wrote no register: the step's inputs used up, its events shown. -/
def stepped (s : State) (events : List Event) : State :=
  { s with env := s.env.tail, drawNo := s.drawNo + 1, out := events }

/-! ## Faults as a reader of the registers and the trace sees them -/

/-- A fault taken before any effect (R191): phase, code, and the FAULT word after the events `before`. -/
def faultedWith (s : State) (code : Nat) (before : List Event) : State :=
  { stepped s (before ++ [.trace (packWord 0xF#4 0 s.mode 0 (BitVec.ofNat 8 code))]) with
    phase := .fault
    faultCode := BitVec.ofNat 4 code }

/-! ## What a step's events hold -/

/-- The trace words among events, in order. -/
def traceWords : List Event → List TraceWord
  | [] => []
  | .trace w :: es => w :: traceWords es
  | _ :: es => traceWords es

/-- The indicator levels commanded among events, in order. -/
def pinLevels : List Event → List PinLevel
  | [] => []
  | .indSet _ l :: es => l :: pinLevels es
  | _ :: es => pinLevels es

/-- The IND_SET events a signal has still to emit (R176): two per pulse to come, one once a pulse is on. -/
def State.edgesLeft (s : State) : Nat :=
  match s.phase with
  | .sigStart => 2 * s.seqRem.toNat
  | .signal => if s.seqState = .on then 2 * s.seqRem.toNat - 1 else 2 * s.seqRem.toNat
  | _ => 0

/-! ## Runs -/

/-- `k` steps, stopping where a step stops. -/
def after : Nat → State → Result
  | 0, s => .next s
  | k + 1, s =>
    match step s with
    | .next t => after k t
    | .fault r => .fault r
    | .refused r => .refused r

/-- The events of the first `k` steps, step by step, as far as they answer next states. -/
def eventsOf : Nat → State → List (List Event)
  | 0, _ => []
  | k + 1, s =>
    match step s with
    | .next t => t.out :: eventsOf k t
    | .fault _ | .refused _ => []

/-- The step from `s` is a DUTY_CHECK that finds its deadline due: it fires (R14). -/
def State.dutyFires (s : State) : Bool := decide (s.phase = .duty ∧ s.DutyDue)

/-- The step from `s` is a MODE_CHECK that fires. -/
def State.modeFires (s : State) : Bool := decide (s.phase = .mode ∧ s.ModeDue)

/-- The step from `s` is an ITER_END. -/
def State.iterEnds (s : State) : Bool := decide (s.phase = .iterEnd)

/-- A run of the update loop without reset and without fault from `s` to `t`, in which `d` DUTY_CHECKs fired, `m`
MODE_CHECKs fired and `y` ITER_ENDs ran. -/
inductive LoopRun (s : State) : (d m y : Nat) → State → Prop where
  | here : LoopRun s 0 0 0 s
  | step {d m y : Nat} {t u : State} (run : LoopRun s d m y t) (inLoop : t.phase.inLoop = true)
      (noReset : t.inputs.rst = false) (answers : Machine.step t = .next u) (noFault : NoFault u) :
      LoopRun s (d + t.dutyFires.toNat) (m + t.modeFires.toNat) (y + t.iterEnds.toNat) u

/-! ## The operations by what they read -/

/-- The operations that sample the clock (R41). -/
def samplesClock : Op → Bool
  | .start | .sample | .sigStart | .sigWait | .sigOnEnd | .sigOffEnd => true
  | .reset | .init | .fill | .dutyCheck | .modeCheck | .iterEnd | .yield | .fault => false

/-- The operations that begin with `checkWF`: "every operation except RESET and INIT" (R46), FAULT being the `raise`
itself. -/
def beginsWithCheckWF : Op → Bool
  | .fill | .start | .sample | .dutyCheck | .modeCheck | .iterEnd | .yield => true
  | .sigStart | .sigWait | .sigOnEnd | .sigOffEnd => true
  | .reset | .init | .fault => false

end Sys2Proof.Machine
end

