-- ==== Sys2Proof/Certificates/Slice0/Obligations.lean ====
section
/-! DEFINITION. The statements about the engine, each from a numbered rule of spec/ or from several. In them, `stepped`
and `faultedWith` (Safety.lean) are the ports and the trap entry of a step written out, and `packWord op f md idx val` is
the word of rule R83. A field of an operation that a statement quantifies over and its conclusion does not read is an
output of the step (notes/assumptions/1.md). -/

open Sys2Proof Sys2Proof.Machine

/-! ## Encoding (30_encoding.md) -/

/-- R82, R83: the five fields are the bits the format gives them, each an unsigned integer taken as it is, and the word
is `{OP, F, MD, IDX, VAL}` of its fields. -/
def Obligations.FieldsAreBitsOfTheWord : Prop :=
  ∀ w : TraceWord,
    (opField w).toNat = w.toNat / 2 ^ 28 ∧
    (fField w).toNat = w.toNat / 2 ^ 27 % 2 ∧
    (mdField w).toNat = w.toNat / 2 ^ 24 % 8 ∧
    (idxField w).toNat = w.toNat / 2 ^ 8 % 65536 ∧
    (valField w).toNat = w.toNat % 256 ∧
    packWord (opField w) (fField w) (mdField w) (idxField w) (valField w) = w

/-- R83, R84: decoding an encoded operation gives it back, for every operation and every value of every field. -/
def Obligations.EncodeThenDecode : Prop := ∀ i : Instr, decode (encode i) = .ok i

/-- R83, R84: a word the decoder accepts is the encoding of what it answers; so no two words decode to one operation. -/
def Obligations.DecodeThenEncode : Prop := ∀ (w : TraceWord) (i : Instr), decode w = .ok i → encode i = w

/-- R86, U10: the words whose OP is 0xD or 0xE, and only they, are INVALID for their operation code, under every
`cfg`. -/
def Obligations.ReservedOpcodesAreInvalid : Prop :=
  ∀ (c : Cfg) (w : TraceWord),
    (verdict c w = .error .reservedOp ↔ opField w = 0xD#4 ∨ opField w = 0xE#4)

/-- R84, R85: a word is valid for `cfg` exactly when its OP is that of an operation and its fields are in the ranges of
rule R84's row. That the row of RESET does not ask `MD < M` is the model's choice for a `cfg` with `M = 0`
(notes/assumptions/16.md). -/
def Obligations.VerdictOkIffFieldsInRange : Prop :=
  ∀ (c : Cfg) (w : TraceWord),
    (∃ i, verdict c w = .ok i) ↔
      let op := opField w
      let f := fField w
      let md := (mdField w).toNat
      let idx := (idxField w).toNat
      let val := (valField w).toNat
      (op = 0x0#4 ∧ f = 0 ∧ md = 0 ∧ idx = 0 ∧ val = 0) ∨
      (op = 0x1#4 ∧ f = 0 ∧ md < c.m ∧ idx = 0 ∧ val = 0) ∨
      (op = 0x2#4 ∧ f = 0 ∧ md < c.m ∧ idx < c.n ∧ c.min ≤ val ∧ val ≤ c.max) ∨
      (op = 0x3#4 ∧ f = 0 ∧ md = 0 ∧ md < c.m ∧ idx = 0 ∧ val = 0) ∨
      (op = 0x4#4 ∧ f = 0 ∧ md < c.m ∧ idx = 0 ∧ val = 0) ∨
      (op = 0x5#4 ∧ f = 1 ∧ md < c.m ∧ idx < c.n ∧ c.min ≤ val ∧ val ≤ c.max) ∨
      (op = 0x5#4 ∧ f = 0 ∧ md < c.m ∧ idx = 0 ∧ val = 0) ∨
      (op = 0x6#4 ∧ f = 1 ∧ md < c.m ∧ idx = 0 ∧ val = md + 1) ∨
      (op = 0x6#4 ∧ f = 0 ∧ md < c.m ∧ idx = 0 ∧ val = 0) ∨
      (op = 0x7#4 ∧ md < c.m ∧ idx = 0 ∧ val = 0) ∨
      (op = 0x8#4 ∧ f = 0 ∧ md < c.m ∧ idx = 0 ∧ val = 0) ∨
      (op = 0x9#4 ∧ f = 1 ∧ md < c.m ∧ idx = 0 ∧ 1 ≤ val ∧ val ≤ c.m) ∨
      (op = 0xA#4 ∧ md < c.m ∧ idx = 0 ∧ 1 ≤ val ∧ val ≤ c.m) ∨
      (op = 0xB#4 ∧ f = 0 ∧ md < c.m ∧ idx = 0 ∧ val < c.m) ∨
      (op = 0xC#4 ∧ f = 1 ∧ md < c.m ∧ idx = 0 ∧ 1 ≤ val ∧ val < c.m) ∨
      (op = 0xF#4 ∧ f = 0 ∧ idx = 0 ∧ 1 ≤ val ∧ val ≤ 6)

/-- R90: the example encodings, decoded under the configuration REF. A sanity statement. -/
def Obligations.ExampleWordsDecode : Prop :=
  verdict Cfg.start 0x00000000#32 = .ok .reset ∧
  verdict Cfg.start 0x10000000#32 = .ok (.init 0) ∧
  verdict Cfg.start 0x2000003C#32 = .ok (.fill 0 0 60) ∧
  verdict Cfg.start 0x30000000#32 = .ok .start ∧
  verdict Cfg.start 0x5800003C#32 = .ok (.dutyCheck true 0 0 60) ∧
  verdict Cfg.start 0x50000000#32 = .ok (.dutyCheck false 0 0 0) ∧
  verdict Cfg.start 0x69000002#32 = .ok (.modeCheck true 1 2) ∧
  verdict Cfg.start 0x78000000#32 = .ok (.iterEnd true 0) ∧
  verdict Cfg.start 0x99000002#32 = .ok (.sigStart 1 2) ∧
  verdict Cfg.start 0xB1000001#32 = .ok (.sigOnEnd 1 1) ∧
  verdict Cfg.start 0xF0000003#32 = .ok (.fault 0 3) ∧
  verdict Cfg.start 0xD0000000#32 = .error .reservedOp ∧
  verdict Cfg.start 0x40000001#32 = .error .fieldFixed

/-- R85: the engine never emits an INVALID word: every trace word of a step from a state that keeps the invariant is
valid for the state's `cfg`. For the RESET word under a `cfg` with `M = 0` this rests on the model's choice that the word
is valid there (notes/assumptions/16.md). -/
def Obligations.EmittedWordsAreValid : Prop :=
  ∀ (s t : State) (w : TraceWord),
    Inv s → step s = .next t → .trace w ∈ t.out → ∃ i, verdict s.cfg w = .ok i

/-- R81: a step that performs an operation ends with a TRACE event; it emits exactly one, the word of the operation
with the fields of R84, or the FAULT word if it raises a fault; the one exception is a DUTY_CHECK whose PWM write fails,
which emits its own word and then the FAULT word. -/
def Obligations.OneTraceWordPerStep : Prop :=
  ∀ (s t : State) (i : Instr), s.selected = some i → step s = .next t →
    (∃ w, t.out.getLast? = some (.trace w)) ∧
    (t.phase ≠ .fault → traceWords t.out = [encode i]) ∧
    (t.phase = .fault →
      let faultWord := packWord 0xF#4 0 s.mode 0 (t.faultCode.setWidth 8)
      (t.faultCode ≠ 5 → traceWords t.out = [faultWord]) ∧
      (t.faultCode = 5 → i.op = .dutyCheck ∧ traceWords t.out = [encode i, faultWord]))

/-! ## The step -/

/-- R160, R221: where an operation is selected, the step is `exec` of what its word decodes to; where none is (phase
FAULT without `rst`), nothing runs; that such a step passes is log entry 9. -/
def Obligations.StepRunsTheDecodedOperation : Prop :=
  ∀ s : State,
    (∀ (w : TraceWord) (i : Instr), s.selectedWord = some w → decode w = .ok i → step s = exec i s) ∧
    (s.selectedWord = none → step s = .next (stepped s []))

/-- R160: the next operation by phase, and in phase SIGNAL by the step's own sample; none in FAULT; a reserved phase
raises ILLEGAL_STATE; a reset request takes precedence over all of it. -/
def Obligations.NextOperationByPhase : Prop :=
  ∀ s : State,
    (s.inputs.rst = true → s.selected = some .reset) ∧
    (s.inputs.rst = false →
      (s.phase = .init → s.selected.map Instr.op = some .init) ∧
      (s.phase = .fill → s.selected.map Instr.op = some .fill) ∧
      (s.phase = .start → s.selected.map Instr.op = some .start) ∧
      (s.phase = .sample → s.selected.map Instr.op = some .sample) ∧
      (s.phase = .duty → s.selected.map Instr.op = some .dutyCheck) ∧
      (s.phase = .mode → s.selected.map Instr.op = some .modeCheck) ∧
      (s.phase = .sigStart → s.selected.map Instr.op = some .sigStart) ∧
      (s.phase = .signal → s.inputs.clk < s.seqEnd → s.selected.map Instr.op = some .sigWait) ∧
      (s.phase = .signal → s.seqEnd ≤ s.inputs.clk → s.seqState = .on → s.selected.map Instr.op = some .sigOnEnd) ∧
      (s.phase = .signal → s.seqEnd ≤ s.inputs.clk → s.seqState ≠ .on →
        s.selected.map Instr.op = some .sigOffEnd) ∧
      (s.phase = .iterEnd → s.selected.map Instr.op = some .iterEnd) ∧
      (s.phase = .yield → s.selected.map Instr.op = some .yield) ∧
      (s.phase = .fault → s.selected = none) ∧
      (s.phase.legal = false → step s = .next (faultedWith s 6 [])))

/-- The model's choice (notes/assumptions/4.md): under a valid `cfg`, the step after `withFetchWord` of a valid word
performs exactly that word: its last event is the word. Left out are the FAULT words, whose step is another operation's,
and ITER_END with F = 0 where K = 1, which the rules never emit. -/
def Obligations.WithFetchWordIsPerformedNext : Prop :=
  ∀ (s : State) (i : Instr),
    Valid s.cfg → i.wellFormed s.cfg = true → i.op ≠ .fault → (∀ md, i = .iterEnd false md → 2 ≤ s.cfg.k) →
    ∃ t, step (s.withFetchWord 32 (encode i).toNat) = .next t ∧ t.out.getLast? = some (.trace (encode i))

/-! ## What each operation does -/

/-- R220: RESET from any state gives every register its value of R47, leaves `cfg`, and emits its word only. -/
def Obligations.ResetResult : Prop :=
  ∀ s : State,
    exec .reset s = .next
      { cfg := s.cfg, phase := .init, fillIdx := 0, cursor := 0, mode := 0, nextDuty := 0, nextMode := 0, tIter := 0,
        tLast := 0, iterCnt := 0, seqState := .idle, seqRem := 0, seqEnd := 0, dutyOut := none, indLevel := none,
        faultCode := 0, table := [], env := s.env.tail, drawNo := s.drawNo + 1,
        out := [.trace (packWord 0x0#4 0 0 0 0)] }

/-- R102, R193, R194: INIT validates `cfg` first, then configures the peripheral, then drives the indicator off; what
it does not name stays. -/
def Obligations.InitResult : Prop :=
  ∀ (s : State) (md : ModeNo), s.phase = .init →
    let configure := Event.pwmConfigure s.cfg.carrierFreq s.cfg.resolution
    (Valid s.cfg → s.inputs.cfgOk = true →
      exec (.init md) s = .next
        { stepped s [configure, .indSet s.cfg.indPin (if s.cfg.indActiveHigh then .low else .high),
            .trace (packWord 0x1#4 0 s.mode 0 0)] with
          indLevel := some .off, fillIdx := 0, phase := .fill }) ∧
    (¬Valid s.cfg → exec (.init md) s = .next (faultedWith s 1 [])) ∧
    (Valid s.cfg → s.inputs.cfgOk = false → exec (.init md) s = .next (faultedWith s 2 [configure]))

/-- R103, R62: FILL writes the entropy draw at `fill_idx`, and START follows the last entry; what it does not name
stays. -/
def Obligations.FillResult : Prop :=
  ∀ (s : State) (md : ModeNo) (idx : Index) (val : Byte), s.phase = .fill →
    let v := s.inputs.entropy
    (s.WF → s.cfg.min ≤ v.toNat → v.toNat ≤ s.cfg.max →
      exec (.fill md idx val) s = .next
        { stepped s [.trace (packWord 0x2#4 0 s.mode (s.fillIdx.setWidth 16) v)] with
          table := s.table.write s.fillIdx.toNat v
          fillIdx := BitVec.ofNat 17 (s.fillIdx.toNat + 1)
          phase := if s.fillIdx.toNat + 1 = s.cfg.n then .start else .fill }) ∧
    (¬s.WF → exec (.fill md idx val) s = .next (faultedWith s 6 []))

/-- R208, U3: the model has no step for an entropy draw outside [MIN, MAX]; a free draw is never outside it. -/
def Obligations.FillRefusesEntropyOutOfRange : Prop :=
  ∀ (s : State) (md : ModeNo) (idx : Index) (val : Byte), s.phase = .fill → s.WF →
    (s.inputs.entropy.toNat < s.cfg.min ∨ s.cfg.max < s.inputs.entropy.toNat →
      exec (.fill md idx val) s = .refused .entropyOutOfRange) ∧
    (s.env = [] → s.cfg.min ≤ s.inputs.entropy.toNat ∧ s.inputs.entropy.toNat ≤ s.cfg.max)

/-- R106: START samples the start time and sets both deadlines, mode 0, cursor 0; what it does not name stays. -/
def Obligations.StartResult : Prop :=
  ∀ s : State, s.phase = .start →
    let t := s.inputs.clk
    (s.WF → s.tLast ≤ t → t.toNat + s.cfg.dOff < 2 ^ 64 → t.toNat + s.cfg.mOff < 2 ^ 64 →
      exec .start s = .next
        { stepped s [.trace (packWord 0x3#4 0 0 0 0)] with
          tLast := t, tIter := t
          nextDuty := BitVec.ofNat 64 (t.toNat + s.cfg.dOff)
          nextMode := BitVec.ofNat 64 (t.toNat + s.cfg.mOff)
          mode := 0, cursor := 0, iterCnt := 0, phase := .sample }) ∧
    (¬s.WF → exec .start s = .next (faultedWith s 6 [])) ∧
    (s.WF → t < s.tLast → exec .start s = .next (faultedWith s 3 [])) ∧
    (s.WF → s.tLast ≤ t → 2 ^ 64 ≤ t.toNat + s.cfg.dOff ∨ 2 ^ 64 ≤ t.toNat + s.cfg.mOff →
      exec .start s = .next (faultedWith s 4 []))

/-- R142: SAMPLE takes the iteration's clock sample; what it does not name stays. -/
def Obligations.SampleResult : Prop :=
  ∀ (s : State) (md : ModeNo), s.phase = .sample →
    let t := s.inputs.clk
    (s.WF → s.tLast ≤ t →
      exec (.sample md) s = .next
        { stepped s [.trace (packWord 0x4#4 0 s.mode 0 0)] with tLast := t, tIter := t, phase := .duty }) ∧
    (¬s.WF → exec (.sample md) s = .next (faultedWith s 6 [])) ∧
    (s.WF → t < s.tLast → exec (.sample md) s = .next (faultedWith s 3 []))

/-- What a DUTY_CHECK that fires on the entry `v` leaves, apart from a failed write's fault (R143, R122). -/
def dutyPlayed (s : State) (v : Byte) : State :=
  { stepped s [.pwmSetDuty s.cfg.pwmChannel (v.toNat * s.cfg.nativeMax / 255), .pwmCommit s.cfg.pwmChannel,
      .trace (packWord 0x5#4 1 s.mode s.cursor v)] with
    nextDuty := BitVec.ofNat 64 (s.tIter.toNat + s.cfg.interval.getD s.mode.toNat 0)
    cursor := BitVec.ofNat 16 ((s.cursor.toNat + 1) % s.cfg.n)
    dutyOut := some (v.toNat * s.cfg.nativeMax / 255)
    phase := .mode }

/-- R143, R122, R198: DUTY_CHECK fires when `t_iter >= next_duty`; it then reschedules from `t_iter`, plays
`table[cursor]` and emits the PWM pair in order; a failed write is a fault after all of this. What it does not name
stays. -/
def Obligations.DutyCheckResult : Prop :=
  ∀ (s : State) (f : Bool) (md : ModeNo) (idx : Index) (val : Byte), s.phase = .duty →
    let fits := s.tIter.toNat + s.cfg.interval.getD s.mode.toNat 0 < 2 ^ 64
    (s.WF → s.tIter < s.nextDuty →
      exec (.dutyCheck f md idx val) s = .next
        { stepped s [.trace (packWord 0x5#4 0 s.mode 0 0)] with phase := .mode }) ∧
    (s.WF → s.nextDuty ≤ s.tIter → fits → s.inputs.wrOk = true →
      ∃ v, s.table.read s.cursor.toNat = some v ∧ exec (.dutyCheck f md idx val) s = .next (dutyPlayed s v)) ∧
    (s.WF → s.nextDuty ≤ s.tIter → fits → s.inputs.wrOk = false →
      ∃ v, s.table.read s.cursor.toNat = some v ∧
        exec (.dutyCheck f md idx val) s = .next
          { dutyPlayed s v with
            phase := .fault, faultCode := 5
            out := (dutyPlayed s v).out ++ [.trace (packWord 0xF#4 0 s.mode 0 5)] }) ∧
    (¬s.WF → exec (.dutyCheck f md idx val) s = .next (faultedWith s 6 [])) ∧
    (s.WF → s.nextDuty ≤ s.tIter → ¬fits → exec (.dutyCheck f md idx val) s = .next (faultedWith s 4 []))

/-- R144, R133: MODE_CHECK fires when `t_iter >= next_mode`; it then reschedules from `t_iter`, advances the mode and
starts a signal of `mode + 1` pulses. What it does not name stays, `next_duty` among it (R151). -/
def Obligations.ModeCheckResult : Prop :=
  ∀ (s : State) (f : Bool) (md : ModeNo) (val : Byte), s.phase = .mode →
    let m := (s.mode.toNat + 1) % s.cfg.m
    (s.WF → s.tIter < s.nextMode →
      exec (.modeCheck f md val) s = .next
        { stepped s [.trace (packWord 0x6#4 0 s.mode 0 0)] with phase := .iterEnd }) ∧
    (s.WF → s.nextMode ≤ s.tIter → s.tIter.toNat + s.cfg.msi < 2 ^ 64 →
      exec (.modeCheck f md val) s = .next
        { stepped s [.modeChanged (BitVec.ofNat 3 m),
            .trace (packWord 0x6#4 1 (BitVec.ofNat 3 m) 0 (BitVec.ofNat 8 (m + 1)))] with
          nextMode := BitVec.ofNat 64 (s.tIter.toNat + s.cfg.msi)
          mode := BitVec.ofNat 3 m
          seqRem := BitVec.ofNat 4 (m + 1)
          phase := .sigStart }) ∧
    (¬s.WF → exec (.modeCheck f md val) s = .next (faultedWith s 6 [])) ∧
    (s.WF → s.nextMode ≤ s.tIter → 2 ^ 64 ≤ s.tIter.toNat + s.cfg.msi →
      exec (.modeCheck f md val) s = .next (faultedWith s 4 []))

/-- R145: ITER_END counts the iteration; at the K-th a YIELD follows. What it does not name stays. -/
def Obligations.IterEndResult : Prop :=
  ∀ (s : State) (f : Bool) (md : ModeNo), s.phase = .iterEnd →
    (s.WF → s.iterCnt.toNat + 1 = s.cfg.k →
      exec (.iterEnd f md) s = .next
        { stepped s [.trace (packWord 0x7#4 1 s.mode 0 0)] with iterCnt := 0, phase := .yield }) ∧
    (s.WF → s.iterCnt.toNat + 1 ≠ s.cfg.k →
      exec (.iterEnd f md) s = .next
        { stepped s [.trace (packWord 0x7#4 0 s.mode 0 0)] with iterCnt := s.iterCnt + 1, phase := .sample }) ∧
    (¬s.WF → exec (.iterEnd f md) s = .next (faultedWith s 6 []))

/-- R146: YIELD emits YIELD_REQ and goes on at SAMPLE; no other register changes. -/
def Obligations.YieldResult : Prop :=
  ∀ (s : State) (md : ModeNo), s.phase = .yield →
    (s.WF → exec (.yield md) s = .next
      { stepped s [.yieldReq, .trace (packWord 0x8#4 0 s.mode 0 0)] with phase := .sample }) ∧
    (¬s.WF → exec (.yield md) s = .next (faultedWith s 6 []))

/-- R171: SIG_START turns the first pulse on, timed from its own sample. What it does not name stays. -/
def Obligations.SigStartResult : Prop :=
  ∀ (s : State) (md : ModeNo) (val : Byte), s.phase = .sigStart →
    let t := s.inputs.clk
    (s.WF → s.tLast ≤ t → t.toNat + s.cfg.tOn < 2 ^ 64 →
      exec (.sigStart md val) s = .next
        { stepped s [.indSet s.cfg.indPin (if s.cfg.indActiveHigh then .high else .low),
            .trace (packWord 0x9#4 1 s.mode 0 (s.seqRem.setWidth 8))] with
          tLast := t, indLevel := some .on, seqState := .on
          seqEnd := BitVec.ofNat 64 (t.toNat + s.cfg.tOn), phase := .signal }) ∧
    (¬s.WF → exec (.sigStart md val) s = .next (faultedWith s 6 [])) ∧
    (s.WF → t < s.tLast → exec (.sigStart md val) s = .next (faultedWith s 3 [])) ∧
    (s.WF → s.tLast ≤ t → 2 ^ 64 ≤ t.toNat + s.cfg.tOn →
      exec (.sigStart md val) s = .next (faultedWith s 4 []))

/-- R172: SIG_WAIT writes `t_last` only; F says whether the pulse is on. -/
def Obligations.SigWaitResult : Prop :=
  ∀ (s : State) (f : Bool) (md : ModeNo) (val : Byte), s.phase = .signal → s.inputs.clk < s.seqEnd →
    let t := s.inputs.clk
    (s.WF → s.tLast ≤ t →
      exec (.sigWait f md val) s = .next
        { stepped s [.trace (packWord 0xA#4 (if s.seqState = .on then 1 else 0) s.mode 0 (s.seqRem.setWidth 8))] with
          tLast := t }) ∧
    (¬s.WF → exec (.sigWait f md val) s = .next (faultedWith s 6 [])) ∧
    (s.WF → t < s.tLast → exec (.sigWait f md val) s = .next (faultedWith s 3 []))

/-- R173: SIG_ON_END turns the pulse off; after the last pulse the signal ends at once, otherwise the gap is timed from
this sample. What it does not name stays. -/
def Obligations.SigOnEndResult : Prop :=
  ∀ (s : State) (md : ModeNo) (val : Byte), s.phase = .signal → s.seqEnd ≤ s.inputs.clk → s.seqState = .on →
    let t := s.inputs.clk
    let off := Event.indSet s.cfg.indPin (if s.cfg.indActiveHigh then .low else .high)
    (s.WF → s.tLast ≤ t → s.seqRem = 1 →
      exec (.sigOnEnd md val) s = .next
        { stepped s [off, .trace (packWord 0xB#4 0 s.mode 0 0)] with
          tLast := t, indLevel := some .off, seqRem := 0, seqState := .idle, phase := .iterEnd }) ∧
    (s.WF → s.tLast ≤ t → s.seqRem ≠ 1 → t.toNat + s.cfg.tOff < 2 ^ 64 →
      exec (.sigOnEnd md val) s = .next
        { stepped s [off, .trace (packWord 0xB#4 0 s.mode 0 ((s.seqRem - 1).setWidth 8))] with
          tLast := t, indLevel := some .off, seqRem := s.seqRem - 1, seqState := .off
          seqEnd := BitVec.ofNat 64 (t.toNat + s.cfg.tOff) }) ∧
    (¬s.WF → exec (.sigOnEnd md val) s = .next (faultedWith s 6 [])) ∧
    (s.WF → t < s.tLast → exec (.sigOnEnd md val) s = .next (faultedWith s 3 [])) ∧
    (s.WF → s.tLast ≤ t → s.seqRem ≠ 1 → 2 ^ 64 ≤ t.toNat + s.cfg.tOff →
      exec (.sigOnEnd md val) s = .next (faultedWith s 4 []))

/-- R174: SIG_OFF_END turns the next pulse on; the pulses to come do not change. What it does not name stays. -/
def Obligations.SigOffEndResult : Prop :=
  ∀ (s : State) (md : ModeNo) (val : Byte), s.phase = .signal → s.seqEnd ≤ s.inputs.clk → s.seqState = .off →
    let t := s.inputs.clk
    (s.WF → s.tLast ≤ t → t.toNat + s.cfg.tOn < 2 ^ 64 →
      exec (.sigOffEnd md val) s = .next
        { stepped s [.indSet s.cfg.indPin (if s.cfg.indActiveHigh then .high else .low),
            .trace (packWord 0xC#4 1 s.mode 0 (s.seqRem.setWidth 8))] with
          tLast := t, indLevel := some .on, seqState := .on
          seqEnd := BitVec.ofNat 64 (t.toNat + s.cfg.tOn) }) ∧
    (¬s.WF → exec (.sigOffEnd md val) s = .next (faultedWith s 6 [])) ∧
    (s.WF → t < s.tLast → exec (.sigOffEnd md val) s = .next (faultedWith s 3 [])) ∧
    (s.WF → s.tLast ≤ t → 2 ^ 64 ≤ t.toNat + s.cfg.tOn →
      exec (.sigOffEnd md val) s = .next (faultedWith s 4 []))

/-! ## Faults (60_exceptions.md) -/

/-- R191, R190: `raise Fault(code)` writes the code and the phase and emits the FAULT word with the `mode` bits at the
fault; nothing else is saved or changed. -/
def Obligations.FaultRaisesItsCode : Prop :=
  ∀ (s : State) (md : ModeNo) (val : Byte), s.phase ≠ .fault → 1 ≤ val.toNat → val.toNat ≤ 6 →
    exec (.fault md val) s = .next
      { stepped s [.trace (packWord 0xF#4 0 s.mode 0 val)] with faultCode := val.setWidth 4, phase := .fault }

/-- R190, U10: the fault codes 0 and 7 on are never raised; FAULT with one of them is refused by name. -/
def Obligations.FaultCodesNeverRaisedAreRefused : Prop :=
  ∀ (s : State) (md : ModeNo) (val : Byte), s.phase ≠ .fault → val.toNat = 0 ∨ 7 ≤ val.toNat →
    exec (.fault md val) s = .refused .faultCodeNeverRaised

/-- R191: every fault but PWM_WRITE_FAILED is precise: the registers are as they were, apart from `phase` and
`fault_code`. -/
def Obligations.FaultsArePrecise : Prop :=
  ∀ (i : Instr) (s t : State), exec i s = .next t → t.phase = .fault → t.faultCode ≠ 5 →
    t = { stepped s t.out with phase := .fault, faultCode := t.faultCode }

/-- R195: a clock sample below `t_last` is the fault CLOCK_NONMONOTONIC, in each of the six operations that sample,
before the operation writes anything. -/
def Obligations.BackwardClockFaults : Prop :=
  ∀ (i : Instr) (s : State), samplesClock i.op = true → s.nextOp = some i.op → s.WF → s.inputs.clk < s.tLast →
    exec i s = .next (faultedWith s 3 [])

/-- R192: in phase FAULT, without a reset request, no operation runs, no event is emitted and every register keeps its
value; with one, RESET runs. That the first passes as a step is log entry 9. -/
def Obligations.FaultStateIsQuiescent : Prop :=
  ∀ s : State, s.phase = .fault →
    (s.inputs.rst = false → step s = .next (stepped s [])) ∧
    (s.inputs.rst = true → step s = exec .reset s)

/-- R221, R202: with `rst` asserted the step is RESET, whatever the phase; and no other step leaves phase FAULT, so a
fault is never returned from. -/
def Obligations.OnlyResetLeavesFault : Prop :=
  ∀ s t : State,
    (s.inputs.rst = true → step s = exec .reset s) ∧
    (step s = .next t → s.phase = .fault → t.phase ≠ .fault → s.inputs.rst = true)

/-- The model's choice of what `exec` answers there (notes/assumptions/5.md), for R204's "every operation runs in the
phase that selects it and in no other": an operation that `next_op` does not select stops by name; RESET needs no
selection, and FAULT only a phase other than FAULT. -/
def Obligations.UnselectedOperationsDoNotRun : Prop :=
  ∀ (i : Instr) (s : State),
    (i.op ≠ .reset → i.op ≠ .fault → s.nextOp ≠ some i.op → exec i s = .fault .notSelected) ∧
    (i.op = .fault → s.phase = .fault → exec i s = .fault .notSelected)

/-! ## State and memory (10_state.md, 20_memory.md) -/

/-- R44: which operation writes which register, for a step that raises no fault; and `raise Fault` from a step of any
operation but DUTY_CHECK writes `phase` and `fault_code` only (`FaultsArePrecise`). -/
def Obligations.RegistersChangeOnlyByTheirWriters : Prop :=
  ∀ (i : Instr) (s t : State), exec i s = .next t → t.phase ≠ .fault → i.op ≠ .reset →
    (t.phase ≠ s.phase → i.op ∉ [Op.sigWait, Op.sigOffEnd]) ∧
    (t.fillIdx ≠ s.fillIdx → i.op ∈ [Op.init, Op.fill]) ∧
    (t.table ≠ s.table → i.op ∈ [Op.fill]) ∧
    (t.cursor ≠ s.cursor → i.op ∈ [Op.start, Op.dutyCheck]) ∧
    (t.mode ≠ s.mode → i.op ∈ [Op.start, Op.modeCheck]) ∧
    (t.nextDuty ≠ s.nextDuty → i.op ∈ [Op.start, Op.dutyCheck]) ∧
    (t.nextMode ≠ s.nextMode → i.op ∈ [Op.start, Op.modeCheck]) ∧
    (t.tIter ≠ s.tIter → i.op ∈ [Op.start, Op.sample]) ∧
    (t.tLast ≠ s.tLast → samplesClock i.op = true) ∧
    (t.iterCnt ≠ s.iterCnt → i.op ∈ [Op.start, Op.iterEnd]) ∧
    (t.seqState ≠ s.seqState → i.op ∈ [Op.sigStart, Op.sigOnEnd, Op.sigOffEnd]) ∧
    (t.seqRem ≠ s.seqRem → i.op ∈ [Op.modeCheck, Op.sigOnEnd]) ∧
    (t.seqEnd ≠ s.seqEnd → i.op ∈ [Op.sigStart, Op.sigOnEnd, Op.sigOffEnd]) ∧
    (t.dutyOut ≠ s.dutyOut → i.op ∈ [Op.dutyCheck]) ∧
    (t.indLevel ≠ s.indLevel → i.op ∈ [Op.init, Op.sigStart, Op.sigOnEnd, Op.sigOffEnd]) ∧
    t.faultCode = s.faultCode

/-- R38: no operation writes `cfg`. -/
def Obligations.ConfigurationNeverChanges : Prop :=
  ∀ (i : Instr) (s t : State), exec i s = .next t → t.cfg = s.cfg

/-- R63: once `fill_idx = N`, no operation but RESET writes the table; RESET returns every entry to ⊥. -/
def Obligations.FilledTableIsImmutable : Prop :=
  ∀ (i : Instr) (s t : State), exec i s = .next t →
    (i.op ≠ .reset → s.fillIdx.toNat = s.cfg.n → t.table = s.table) ∧
    (i.op = .reset → ∀ j, t.table.read j = none)

/-- R61, R62, R70: a read sees the most recent write to its index, and a write leaves every other index alone. -/
def Obligations.TableReadAfterWrite : Prop :=
  ∀ (m : Memory) (i j : Nat) (v : Byte), (m.write i v).read j = if j = i then some v else m.read j

/-- R46: the model's check `WF` is the eight items of the rule with `cfg` valid, the table's item read entry by
entry. -/
def Obligations.WellFormedIffTheEightItems : Prop :=
  ∀ s : State, s.table.wf = true →
    (s.WF ↔
      Valid s.cfg ∧
      s.phase.code.toNat ≤ 10 ∧
      (s.mode.toNat < s.cfg.m ∧ s.cursor.toNat < s.cfg.n ∧ s.fillIdx.toNat ≤ s.cfg.n ∧ s.iterCnt.toNat < s.cfg.k ∧
        s.seqState.code.toNat ≤ 2 ∧ s.seqRem.toNat ≤ s.cfg.m) ∧
      ((s.phase = .fill → s.fillIdx.toNat < s.cfg.n) ∧ (s.phase = .start → s.fillIdx.toNat = s.cfg.n) ∧
        (s.phase ∈ [Phase.sample, .duty, .mode, .sigStart, .signal, .iterEnd, .yield] →
          s.fillIdx.toNat = s.cfg.n ∧ ∀ i, i < s.cfg.n → s.table.read i ≠ none)) ∧
      (s.phase = .sigStart → s.seqState = .idle ∧ 1 ≤ s.seqRem.toNat ∧ s.seqRem.toNat ≤ s.cfg.m) ∧
      (s.phase = .signal → s.seqState ∈ [SeqState.on, .off] ∧ 1 ≤ s.seqRem.toNat) ∧
      (s.phase ∉ [Phase.sigStart, .signal] → s.seqState = .idle) ∧
      s.tIter.toNat ≤ s.tLast.toNat ∧
      (s.phase = .fault ↔ s.faultCode ≠ 0))

/-! ## The invariant -/

/-- The state after reset keeps the invariant, under every `cfg` and whatever the ports hold. -/
def Obligations.InvariantHoldsAtReset : Prop := ∀ (c : Cfg) (s : State), ResetState c s → Inv s

/-- Every step keeps the invariant, from every state that has it. -/
def Obligations.StepKeepsTheInvariant : Prop := ∀ s t : State, Inv s → step s = .next t → Inv t

/-- R46, R196: no step raises ILLEGAL_STATE from a state that keeps the invariant. -/
def Obligations.IllegalStateIsUnreachable : Prop :=
  ∀ s t : State, Inv s → s.phase ≠ .fault → step s = .next t → t.faultCode ≠ 6

/-- R107: START hands over a table whose every entry is in [MIN, MAX], and no step of the loop changes that. -/
def Obligations.TableEntriesStayInBounds : Prop :=
  ∀ s t : State, Inv s → step s = .next t → t.phase.inLoop = true →
    ∀ i, i < t.cfg.n → ∃ v, t.table.read i = some v ∧ t.cfg.min ≤ v.toNat ∧ v.toNat ≤ t.cfg.max

/-! ## Scaler and mode state machine (42_scaler.md, 43_mode_scheduler.md) -/

/-- R121: `scale` is monotonic non-decreasing; `scale(MIN) < scale(MAX)` for the reference range holds for every
NATIVE_MAX >= 2 and fails for NATIVE_MAX = 1, where both give 0. Equal inputs give equal outputs because `scale` is a
function. -/
def Obligations.ScaleIsMonotonic : Prop :=
  (∀ (nativeMax : Nat) (v w : Byte), v ≤ w → scale nativeMax v ≤ scale nativeMax w) ∧
  (∀ nativeMax : Nat, 2 ≤ nativeMax → scale nativeMax 51 < scale nativeMax 204) ∧
  (scale 1 51 = 0 ∧ scale 1 204 = 0)

/-- R120: `scale(v) = (v * NATIVE_MAX) div 255`; it covers 0..NATIVE_MAX and fits the native duty port; and the rule's
corner cases by NATIVE_MAX. -/
def Obligations.ScaleCoversTheNativeRange : Prop :=
  ∀ c : Cfg, Valid c →
    scale c.nativeMax 0 = 0 ∧ scale c.nativeMax 255 = c.nativeMax ∧
    (∀ v : Byte, scale c.nativeMax v = v.toNat * c.nativeMax / 255 ∧
      scale c.nativeMax v ≤ c.nativeMax ∧ scale c.nativeMax v < 2 ^ c.nativeW) ∧
    (c.nativeMax = 255 → ∀ v : Byte, scale c.nativeMax v = v.toNat) ∧
    (c.nativeMax < 255 → ∃ v w : Byte, v ≠ w ∧ scale c.nativeMax v = scale c.nativeMax w) ∧
    (255 < c.nativeMax → ∃ d, d ≤ c.nativeMax ∧ ∀ v : Byte, scale c.nativeMax v ≠ d) ∧
    (c.nativeMax = 1 → ∀ v : Byte, v < 255 → scale c.nativeMax v = 0)

/-- R130, R136: `advance` returns to a mode after M applications and after no fewer. -/
def Obligations.ModeCycleHasPeriodM : Prop :=
  ∀ (modes : Nat) (m : ModeNo) (k : Nat), 1 ≤ modes → modes ≤ 8 → m.toNat < modes →
    ((advance modes)^[k] m = m ↔ modes ∣ k)

/-! ## The update loop (44_update_loop.md) -/

/-- R153, R136, R154: along a run of the loop the cursor, the mode and the yield counter are their start values advanced
by the number of firings, modulo N, M and K, whatever the order of the firings. -/
def Obligations.CountersFollowTheFirings : Prop :=
  ∀ (s t : State) (d m y : Nat), Inv s → s.phase.inLoop = true → LoopRun s d m y t →
    t.cursor.toNat = (s.cursor.toNat + d) % s.cfg.n ∧
    t.mode.toNat = (s.mode.toNat + m) % s.cfg.m ∧
    t.iterCnt.toNat = (s.iterCnt.toNat + y) % s.cfg.k

/-- R150: consecutive firings of DUTY_CHECK are at least the earlier one's interval apart in sample time, and
consecutive firings of MODE_CHECK at least MSI: lateness is never made up. -/
def Obligations.FiringsAreAnIntervalApart : Prop :=
  ∀ s u v : State, Inv s → s.phase.inLoop = true → s.inputs.rst = false → step s = .next u → NoFault u →
    (∀ m y, s.dutyFires = true → LoopRun u 0 m y v → v.dutyFires = true →
      s.tIter.toNat + interval s.cfg s.mode ≤ v.tIter.toNat) ∧
    (∀ d y, s.modeFires = true → LoopRun u d 0 y v → v.modeFires = true →
      s.tIter.toNat + s.cfg.msi ≤ v.tIter.toNat)

/-- R148: when both deadlines are due, both fire in the iteration, the duty update first and with the old mode's
interval, then the mode transition, then the feedback signal. -/
def Obligations.DutyFiresBeforeMode : Prop :=
  ∀ s : State, s.phase = .duty → s.WF → s.nextDuty ≤ s.tIter → s.nextMode ≤ s.tIter →
    s.tIter.toNat + interval s.cfg s.mode < 2 ^ 64 → s.tIter.toNat + s.cfg.msi < 2 ^ 64 →
    s.inputs.rst = false → s.inputs.wrOk = true → s.tick.inputs.rst = false →
    ∃ t u, step s = .next t ∧ step t = .next u ∧
      s.dutyFires = true ∧ t.modeFires = true ∧
      u.nextDuty.toNat = s.tIter.toNat + interval s.cfg s.mode ∧
      u.nextMode.toNat = s.tIter.toNat + s.cfg.msi ∧
      u.mode = advance s.cfg.m s.mode ∧ u.phase = .sigStart

/-- R149, R162: the iteration's one sample decides both checks: DUTY_CHECK fires exactly if `next_duty` is at or below
the sample that SAMPLE took, and MODE_CHECK exactly if `next_mode` is; so a deadline that a sample has reached fires in
that iteration. -/
def Obligations.OneTimeBasePerIteration : Prop :=
  ∀ s t u : State, Inv s → s.phase = .sample → s.inputs.rst = false → step s = .next t → NoFault t →
    t.inputs.rst = false → step t = .next u → NoFault u →
    t.phase = .duty ∧ u.phase = .mode ∧
    (t.dutyFires = true ↔ s.nextDuty ≤ s.inputs.clk) ∧ (u.modeFires = true ↔ s.nextMode ≤ s.inputs.clk)

/-- R161: no operation of the loop leaves it but for a fault; only RESET does. -/
def Obligations.LoopNeverExits : Prop :=
  ∀ (i : Instr) (s t : State), s.phase.inLoop = true → exec i s = .next t → i.op ≠ .reset →
    t.phase.inLoop = true ∨ t.phase = .fault

/-- R175, R178: during a signal only the sequencer's operations run, so no duty is written, no mode changes and no
yield is requested until the signal ends at ITER_END. -/
def Obligations.SignalBlocksTheLoop : Prop :=
  ∀ (s t : State) (i : Instr), s.phase.inSignal = true → s.inputs.rst = false → s.selected = some i →
    i.op ∈ [Op.sigStart, .sigWait, .sigOnEnd, .sigOffEnd] ∧
    (step s = .next t →
      (t.phase = .signal ∨ t.phase = .iterEnd ∨ t.phase = .fault) ∧
      .yieldReq ∉ t.out ∧ (∀ ch d, .pwmSetDuty ch d ∉ t.out) ∧ (∀ m, .modeChanged m ∉ t.out) ∧
      t.dutyOut = s.dutyOut ∧ t.mode = s.mode ∧ t.tIter = s.tIter)

/-- R176: a signal of count `c` emits exactly `2c` IND_SET events, alternating ON and OFF and ending OFF: each step of
a signal without a fault emits as many as the edges left fall by, the next edge's level with each. -/
def Obligations.SignalEmitsTwoEdgesPerPulse : Prop :=
  ∀ s t : State, Inv s → s.phase.inSignal = true → s.inputs.rst = false → step s = .next t → NoFault t →
    s.edgesLeft = (pinLevels t.out).length + t.edgesLeft ∧
    (∀ l ∈ pinLevels t.out, l = pinLevel s.cfg (if s.edgesLeft % 2 = 0 then .on else .off)) ∧
    (t.phase.inSignal = false → t.edgesLeft = 0 ∧ t.indLevel = some .off)

/-- R176, R231: a signal of count `c` lasts at least `c * T_ON + (c - 1) * T_OFF` in sample time, from its first sample,
the one SIG_START takes, to its last, and no duty update falls between. -/
def Obligations.SignalLastsAtLeastItsPulses : Prop :=
  ∀ (s t : State) (d m : Nat), Inv s → s.phase = .sigStart → LoopRun s d m 0 t → t.phase = .iterEnd →
    s.inputs.clk.toNat + s.seqRem.toNat * s.cfg.tOn + (s.seqRem.toNat - 1) * s.cfg.tOff ≤ t.tLast.toNat ∧
    d = 0 ∧ m = 0

/-- R162: a signal ends: each step whose sample has reached the end of the pulse phase lowers the edges left by one, so
after as many such steps as edges are left, the signal is over. -/
def Obligations.SignalEndsAsTheClockAdvances : Prop :=
  ∀ s t : State, Inv s → s.phase.inSignal = true → s.inputs.rst = false →
    (s.phase = .signal → s.seqEnd ≤ s.inputs.clk) → step s = .next t → NoFault t →
    t.edgesLeft + 1 = s.edgesLeft ∧ (t.edgesLeft = 0 ↔ t.phase = .iterEnd)

/-- R152: between two consecutive firings of MODE_CHECK, the first into the mode `m` with a signal of ideal duration
`S = c * T_ON + (c - 1) * T_OFF`, at most `floor((s2 - s1 - S) / INTERVAL[m]) + 1` duty updates fire, and
`s2 - s1 >= S`. -/
def Obligations.DutyUpdatesPerModeWindow : Prop :=
  ∀ (s u v : State) (d y : Nat), Inv s → s.modeFires = true → s.inputs.rst = false → step s = .next u → NoFault u →
    LoopRun u d 0 y v → v.modeFires = true →
    let signal := signalCount u.mode * s.cfg.tOn + (signalCount u.mode - 1) * s.cfg.tOff
    s.tIter.toNat + signal ≤ v.tIter.toNat ∧
    d ≤ (v.tIter.toNat - s.tIter.toNat - signal) / interval s.cfg u.mode + 1

/-! ## Boot and inputs -/

/-- R100, R223: a reset request in any state, then, with a valid `cfg` and a peripheral that accepts, one INIT, exactly N
FILLs with the indices 0 to N - 1 and one START lead to the loop, whatever the entropy draws in [MIN, MAX] and the start
time. The events are the rule's, in its order, one operation's word closing each step; the table then holds the draws in
order. -/
def Obligations.BootFillsTheTableAndStarts : Prop :=
  ∀ (s : State) (request e start : Inputs) (draws rest : List Inputs),
    let c := s.cfg
    Valid c → s.env = request :: e :: (draws ++ start :: rest) → request.rst = true →
    (∀ x ∈ e :: start :: draws, x.rst = false) → e.cfgOk = true → draws.length = c.n →
    (∀ x ∈ draws, c.min ≤ x.entropy.toNat ∧ x.entropy.toNat ≤ c.max) →
    start.clk.toNat + c.dOff < 2 ^ 64 → start.clk.toNat + c.mOff < 2 ^ 64 →
    (eventsOf (c.n + 3) s =
      [[.trace 0x00000000#32],
        [.pwmConfigure c.carrierFreq c.resolution, .indSet c.indPin (if c.indActiveHigh then .low else .high),
          .trace 0x10000000#32]] ++
      draws.zipIdx.map (fun (x, i) => [.trace (packWord 0x2#4 0 0 (BitVec.ofNat 16 i) x.entropy)]) ++
      [[.trace 0x30000000#32]]) ∧
    ∃ t, after (c.n + 3) s = .next t ∧
      t.phase = .sample ∧ t.mode = 0 ∧ t.cursor = 0 ∧ t.fillIdx.toNat = c.n ∧ t.env = rest ∧
      t.tIter = start.clk ∧ t.tLast = start.clk ∧
      t.nextDuty.toNat = start.clk.toNat + c.dOff ∧ t.nextMode.toNat = start.clk.toNat + c.mOff ∧
      t.indLevel = some .off ∧ t.dutyOut = none ∧
      ∀ i, i < c.n → t.table.read i = draws[i]?.map Inputs.entropy

/-- R41: each input is read only at the steps named: the clock by the six operations that sample, the entropy draw by
FILL, the configuration answer by INIT, the write answer by DUTY_CHECK, and `rst` by none of them. -/
def Obligations.InputsAreReadOnlyWhereNamed : Prop :=
  ∀ (i : Instr) (s : State) (e g : Inputs) (rest : List Inputs),
    (samplesClock i.op = true → g.clk = e.clk) →
    (i.op = .fill → g.entropy = e.entropy) →
    (i.op = .init → g.cfgOk = e.cfgOk) →
    (i.op = .dutyCheck → g.wrOk = e.wrOk) →
    exec i { s with env := g :: rest } = exec i { s with env := e :: rest }
end

