-- ==== Sys2Proof/Laws/Decode.lean ====
section
/-! SUPPORT. The small facts of the trace word: what `packWord` is as a number, that each field of a packed word is what
was packed, and that an operation's code names it. -/

namespace Sys2Proof

/-- Appending bit vectors is shifting and adding. -/
theorem toNat_append_eq {a b : Nat} (x : BitVec a) (y : BitVec b) :
    (x ++ y).toNat = x.toNat * 2 ^ b + y.toNat := by
  rw [BitVec.toNat_append, ← Nat.shiftLeft_add_eq_or_of_lt y.isLt, Nat.shiftLeft_eq]

/-- The word `{OP, F, MD, IDX, VAL}` as a number. -/
theorem packWord_toNat (op : BitVec 4) (f : BitVec 1) (md : ModeNo) (idx : Index) (val : Byte) :
    (packWord op f md idx val).toNat =
      op.toNat * 2 ^ 28 + f.toNat * 2 ^ 27 + md.toNat * 2 ^ 24 + idx.toNat * 2 ^ 8 + val.toNat := by
  have h : (packWord op f md idx val).toNat = (op ++ f ++ md ++ idx ++ val).toNat := rfl
  rw [h]
  simp only [toNat_append_eq]
  omega

theorem opField_packWord (op : BitVec 4) (f : BitVec 1) (md : ModeNo) (idx : Index) (val : Byte) :
    opField (packWord op f md idx val) = op := by
  apply BitVec.eq_of_toNat_eq
  simp only [opField, BitVec.extractLsb'_toNat, packWord_toNat, Nat.shiftRight_eq_div_pow]
  omega

theorem fField_packWord (op : BitVec 4) (f : BitVec 1) (md : ModeNo) (idx : Index) (val : Byte) :
    fField (packWord op f md idx val) = f := by
  apply BitVec.eq_of_toNat_eq
  simp only [fField, BitVec.extractLsb'_toNat, packWord_toNat, Nat.shiftRight_eq_div_pow]
  omega

theorem mdField_packWord (op : BitVec 4) (f : BitVec 1) (md : ModeNo) (idx : Index) (val : Byte) :
    mdField (packWord op f md idx val) = md := by
  apply BitVec.eq_of_toNat_eq
  simp only [mdField, BitVec.extractLsb'_toNat, packWord_toNat, Nat.shiftRight_eq_div_pow]
  omega

theorem idxField_packWord (op : BitVec 4) (f : BitVec 1) (md : ModeNo) (idx : Index) (val : Byte) :
    idxField (packWord op f md idx val) = idx := by
  apply BitVec.eq_of_toNat_eq
  simp only [idxField, BitVec.extractLsb'_toNat, packWord_toNat, Nat.shiftRight_eq_div_pow]
  omega

theorem valField_packWord (op : BitVec 4) (f : BitVec 1) (md : ModeNo) (idx : Index) (val : Byte) :
    valField (packWord op f md idx val) = val := by
  apply BitVec.eq_of_toNat_eq
  simp only [valField, BitVec.extractLsb'_toNat, packWord_toNat, Nat.shiftRight_eq_div_pow]
  omega

/-- An operation's code names the operation (R80). -/
theorem Op.ofCode_code (o : Op) : Op.ofCode o.code = some o := by cases o <;> rfl

/-- A code that names an operation is its code (R80, R86). -/
theorem Op.code_of_ofCode : ∀ (c : BitVec 4) (o : Op), Op.ofCode c = some o → o.code = c := by decide

end Sys2Proof
end

