-- ==== Sys2Proof/Laws/Memory.lean ====
section
/-! SUPPORT. The DutyTable's canonical form: reset has it, every write keeps it, and in it `full` says that every entry
is written. -/

namespace Sys2Proof.Machine

/-- Reset's table is in the canonical form. -/
theorem Memory.wf_reset : Memory.wf State.reset.table = true := rfl

theorem Memory.risesFrom_write {m : Memory} {lo i : Nat} (v : Byte) (h : m.risesFrom lo = true) (hi : lo ≤ i) :
    (m.write i v).risesFrom lo = true := by
  induction m generalizing lo with
  | nil => simp [Memory.write, Memory.risesFrom, hi]
  | cons c m ih =>
    obtain ⟨a, b⟩ := c
    simp only [Memory.risesFrom, Bool.and_eq_true, decide_eq_true_eq] at h
    unfold Memory.write
    split
    · rename_i hlt
      simp [Memory.risesFrom, hi, h.2]
      omega
    · split
      · subst i
        simp [Memory.risesFrom, h]
      · simp only [Memory.risesFrom, Bool.and_eq_true, decide_eq_true_eq]
        exact ⟨h.1, ih h.2 (by omega)⟩

/-- A write keeps the canonical form. -/
theorem Memory.wf_write {m : Memory} (i : Nat) (v : Byte) (h : m.wf = true) : Memory.wf (m.write i v) = true :=
  Memory.risesFrom_write v h (Nat.zero_le i)

/-- The state's write, where rule R62 defines it, keeps the canonical form. -/
theorem State.memWrite_wf {s : State} {i : Nat} {v : Byte} {m : Memory} (h : s.table.wf = true)
    (hw : s.memWrite i v = some m) : Memory.wf m = true := by
  unfold State.memWrite at hw
  split at hw
  · cases hw
    exact Memory.wf_write i v h
  · cases hw

/-- An index below all listed ones is not written. -/
theorem Memory.read_below {m : Memory} {lo i : Nat} (h : m.risesFrom lo = true) (hi : i < lo) : m.read i = none := by
  induction m generalizing lo with
  | nil => rfl
  | cons c m ih =>
    obtain ⟨a, b⟩ := c
    simp only [Memory.risesFrom, Bool.and_eq_true, decide_eq_true_eq] at h
    rw [Memory.read, if_neg (by omega)]
    exact ih h.2 (by omega)

theorem Memory.runsTo_iff {m : Memory} {n lo : Nat} (h : m.risesFrom lo = true) :
    m.runsTo n lo = true ↔ ∀ i, lo ≤ i → i < n → m.read i ≠ none := by
  induction m generalizing lo with
  | nil =>
    simp only [Memory.runsTo, Memory.read, decide_eq_true_eq]
    exact ⟨fun hn i h1 h2 => by omega, fun hr => by
      by_contra hlt
      exact hr lo (Nat.le_refl lo) (by omega) rfl⟩
  | cons c m ih =>
    obtain ⟨a, b⟩ := c
    simp only [Memory.risesFrom, Bool.and_eq_true, decide_eq_true_eq] at h
    unfold Memory.runsTo
    split
    · simp only [true_iff]
      intro i h1 h2
      omega
    · rename_i hn
      simp only [Bool.and_eq_true, decide_eq_true_eq]
      constructor
      · rintro ⟨rfl, hm⟩ i h1 h2
        rw [Memory.read]
        split
        · simp
        · exact (ih h.2).mp hm i (by omega) h2
      · intro hr
        have ha : a = lo := by
          by_contra hne
          refine hr lo (Nat.le_refl lo) (by omega) ?_
          rw [Memory.read, if_neg hne]
          exact Memory.read_below h.2 (by omega)
        subst ha
        refine ⟨rfl, (ih h.2).mpr fun i h1 h2 => ?_⟩
        have hi := hr i (by omega) h2
        rwa [Memory.read, if_neg (by omega)] at hi

/-- In the canonical form, `full n` says that every entry below `n` is written (R46 item 3). -/
theorem Memory.full_iff {m : Memory} {n : Nat} (h : m.wf = true) :
    m.full n = true ↔ ∀ i, i < n → m.read i ≠ none := by
  rw [Memory.full, Memory.runsTo_iff h]
  exact ⟨fun hr i hi => hr i (Nat.zero_le i) hi, fun hr i _ hi => hr i hi⟩

theorem Memory.read_of_runsTo {m : Memory} {n lo i : Nat} (h : m.runsTo n lo = true) (h1 : lo ≤ i) (h2 : i < n) :
    ∃ v, m.read i = some v := by
  induction m generalizing lo with
  | nil =>
    simp only [Memory.runsTo, decide_eq_true_eq] at h
    omega
  | cons c m ih =>
    obtain ⟨a, b⟩ := c
    unfold Memory.runsTo at h
    rw [if_neg (by omega), Bool.and_eq_true, decide_eq_true_eq] at h
    rw [Memory.read]
    split
    · exact ⟨b, rfl⟩
    · exact ih h.2 (by omega)

/-- A full table has a value at every index below `n`, in the canonical form or not. -/
theorem Memory.read_of_full {m : Memory} {n i : Nat} (h : m.full n = true) (hi : i < n) : ∃ v, m.read i = some v :=
  Memory.read_of_runsTo h (Nat.zero_le i) hi

/-- In a well-formed loop state the read at the cursor gives a value: rule R61's fault arm is not reached. -/
theorem State.memRead_cursor {s : State} (h : s.WF) (hl : s.phase.inLoop = true) :
    ∃ v, s.memRead s.cursor = some v ∧ s.table.read s.cursor.toNat = some v := by
  have hc : s.cursor.toNat < s.cfg.n := h.2.2.1.2.1
  obtain ⟨v, hv⟩ := Memory.read_of_full (h.2.2.2.1.2.2 hl).2 hc
  exact ⟨v, by rw [State.memRead, if_pos hc, hv], hv⟩

end Sys2Proof.Machine
end

