-- ==== Sys2Proof/Laws/Ops.lean ====
section
/-! SUPPORT. What each shared check can answer, said once: an operation that answers a next state either passed the
check or took the check's fault. -/

namespace Sys2Proof.Machine

theorem selectedOnly_next {o : Op} {s t : State} {r : Result} (h : selectedOnly o s r = .next t) :
    s.nextOp = some o ∧ r = .next t := by
  unfold selectedOnly at h
  split at h
  · exact ⟨‹_›, h⟩
  · cases h

theorem selectedOnly_of {o : Op} {s : State} (r : Result) (h : s.nextOp = some o) : selectedOnly o s r = r :=
  if_pos h

theorem checkWF_next {s t : State} {r : Result} (h : checkWF s r = .next t) :
    (s.WF ∧ r = .next t) ∨ (¬s.WF ∧ t = s.tick.raise .illegalState) := by
  unfold checkWF at h
  split at h
  · exact .inl ⟨‹_›, h⟩
  · cases h
    exact .inr ⟨‹_›, rfl⟩

theorem checkWF_of {s : State} (r : Result) (h : s.WF) : checkWF s r = r := if_pos h

theorem withSample_next {s t : State} {r : Time → Result} (h : withSample s r = .next t) :
    (s.ClockOk ∧ r s.inputs.clk = .next t) ∨ (¬s.ClockOk ∧ t = s.tick.raise .clockNonmonotonic) := by
  unfold withSample at h
  split at h
  · exact .inl ⟨‹_›, h⟩
  · cases h
    exact .inr ⟨‹_›, rfl⟩

theorem withSample_of {s : State} (r : Time → Result) (h : s.ClockOk) : withSample s r = r s.inputs.clk := if_pos h

theorem unlessOverflow_next {s t : State} {fits : Prop} [Decidable fits] {r : Result}
    (h : unlessOverflow s fits r = .next t) :
    (fits ∧ r = .next t) ∨ (¬fits ∧ t = s.tick.raise .timeOverflow) := by
  unfold unlessOverflow at h
  split at h
  · exact .inl ⟨‹_›, h⟩
  · cases h
    exact .inr ⟨‹_›, rfl⟩

theorem unlessOverflow_of {s : State} {fits : Prop} [Decidable fits] (r : Result) (h : fits) :
    unlessOverflow s fits r = r := if_pos h

/-- A deadline that fits is the exact sum (R147). -/
theorem deadline_toNat {t : Time} {d : Nat} (h : FitsTime t d) : (deadline t d).toNat = t.toNat + d := by
  have h' : t.toNat + d ≤ 2 ^ 64 - 1 := h
  simp only [deadline, BitVec.toNat_ofNat]
  omega

end Sys2Proof.Machine
end

