-- ==== Sys2Proof/Laws/PerInstr.lean ====
section
/-! SUPPORT. Facts about every operation as syntax, one lemma per constructor of `Instr`. -/

namespace Sys2Proof.Laws.EncodesOp

/-- The OP field of an operation's word is the operation's code (R80, R84). -/
def Statement (i : Instr) : Prop := opField (encode i) = i.op.code

theorem reset : Statement .reset := opField_packWord ..

theorem init (md : ModeNo) : Statement (.init md) := opField_packWord ..

theorem fill (md : ModeNo) (idx : Index) (val : Byte) : Statement (.fill md idx val) := opField_packWord ..

theorem start : Statement .start := opField_packWord ..

theorem sample (md : ModeNo) : Statement (.sample md) := opField_packWord ..

theorem dutyCheck (f : Bool) (md : ModeNo) (idx : Index) (val : Byte) : Statement (.dutyCheck f md idx val) :=
  opField_packWord ..

theorem modeCheck (f : Bool) (md : ModeNo) (val : Byte) : Statement (.modeCheck f md val) := opField_packWord ..

theorem iterEnd (f : Bool) (md : ModeNo) : Statement (.iterEnd f md) := opField_packWord ..

theorem yield (md : ModeNo) : Statement (.yield md) := opField_packWord ..

theorem sigStart (md : ModeNo) (val : Byte) : Statement (.sigStart md val) := opField_packWord ..

theorem sigWait (f : Bool) (md : ModeNo) (val : Byte) : Statement (.sigWait f md val) := opField_packWord ..

theorem sigOnEnd (md : ModeNo) (val : Byte) : Statement (.sigOnEnd md val) := opField_packWord ..

theorem sigOffEnd (md : ModeNo) (val : Byte) : Statement (.sigOffEnd md val) := opField_packWord ..

theorem fault (md : ModeNo) (val : Byte) : Statement (.fault md val) := opField_packWord ..

end Sys2Proof.Laws.EncodesOp
end

