-- ==== Sys2Proof/Laws/Runs.lean ====
section
/-! SUPPORT. Runs of several steps compose: the small lemmas of `after` and `eventsOf`. -/

namespace Sys2Proof.Machine

@[simp] theorem after_zero (s : State) : after 0 s = .next s := rfl

@[simp] theorem eventsOf_zero (s : State) : eventsOf 0 s = [] := rfl

/-- A first step that answers a next state leaves one step fewer to take from there. -/
theorem after_succ_of_next {k : Nat} {s t : State} (h : step s = .next t) : after (k + 1) s = after k t := by
  simp only [after, h]

/-- The first step's events come first. -/
theorem eventsOf_succ_of_next {k : Nat} {s t : State} (h : step s = .next t) :
    eventsOf (k + 1) s = t.out :: eventsOf k t := by
  simp only [eventsOf, h]

/-- A run that answers a next state goes on from it, and so do its events. -/
theorem after_add_of_next {j k : Nat} {s t : State} (h : after j s = .next t) :
    after (j + k) s = after k t ∧ eventsOf (j + k) s = eventsOf j s ++ eventsOf k t := by
  induction j generalizing s with
  | zero => cases h; simp
  | succ j ih =>
    cases hs : step s with
    | next u =>
      rw [after_succ_of_next hs] at h
      rw [Nat.add_right_comm, after_succ_of_next hs, eventsOf_succ_of_next hs, eventsOf_succ_of_next hs, (ih h).1, (ih h).2]
      exact ⟨rfl, rfl⟩
    | fault r => simp only [after, hs, reduceCtorEq] at h
    | refused r => simp only [after, hs, reduceCtorEq] at h

end Sys2Proof.Machine
end

