-- ==== Sys2Proof/Laws/State.lean ====
section
/-! SUPPORT. One lemma per field per named update of the state, each true by rfl, so that no later proof unfolds an
update. -/

namespace Sys2Proof.Machine

/-! ### `tick` -/

@[simp] theorem State.tick_cfg (s : State) : s.tick.cfg = s.cfg := rfl
@[simp] theorem State.tick_phase (s : State) : s.tick.phase = s.phase := rfl
@[simp] theorem State.tick_fillIdx (s : State) : s.tick.fillIdx = s.fillIdx := rfl
@[simp] theorem State.tick_cursor (s : State) : s.tick.cursor = s.cursor := rfl
@[simp] theorem State.tick_mode (s : State) : s.tick.mode = s.mode := rfl
@[simp] theorem State.tick_nextDuty (s : State) : s.tick.nextDuty = s.nextDuty := rfl
@[simp] theorem State.tick_nextMode (s : State) : s.tick.nextMode = s.nextMode := rfl
@[simp] theorem State.tick_tIter (s : State) : s.tick.tIter = s.tIter := rfl
@[simp] theorem State.tick_tLast (s : State) : s.tick.tLast = s.tLast := rfl
@[simp] theorem State.tick_iterCnt (s : State) : s.tick.iterCnt = s.iterCnt := rfl
@[simp] theorem State.tick_seqState (s : State) : s.tick.seqState = s.seqState := rfl
@[simp] theorem State.tick_seqRem (s : State) : s.tick.seqRem = s.seqRem := rfl
@[simp] theorem State.tick_seqEnd (s : State) : s.tick.seqEnd = s.seqEnd := rfl
@[simp] theorem State.tick_dutyOut (s : State) : s.tick.dutyOut = s.dutyOut := rfl
@[simp] theorem State.tick_indLevel (s : State) : s.tick.indLevel = s.indLevel := rfl
@[simp] theorem State.tick_faultCode (s : State) : s.tick.faultCode = s.faultCode := rfl
@[simp] theorem State.tick_table (s : State) : s.tick.table = s.table := rfl
@[simp] theorem State.tick_env (s : State) : s.tick.env = s.env.tail := rfl
@[simp] theorem State.tick_drawNo (s : State) : s.tick.drawNo = s.drawNo + 1 := rfl
@[simp] theorem State.tick_out (s : State) : s.tick.out = [] := rfl

/-! ### `emit` -/

@[simp] theorem State.emit_cfg (s : State) (e : Event) : (s.emit e).cfg = s.cfg := rfl
@[simp] theorem State.emit_phase (s : State) (e : Event) : (s.emit e).phase = s.phase := rfl
@[simp] theorem State.emit_fillIdx (s : State) (e : Event) : (s.emit e).fillIdx = s.fillIdx := rfl
@[simp] theorem State.emit_cursor (s : State) (e : Event) : (s.emit e).cursor = s.cursor := rfl
@[simp] theorem State.emit_mode (s : State) (e : Event) : (s.emit e).mode = s.mode := rfl
@[simp] theorem State.emit_nextDuty (s : State) (e : Event) : (s.emit e).nextDuty = s.nextDuty := rfl
@[simp] theorem State.emit_nextMode (s : State) (e : Event) : (s.emit e).nextMode = s.nextMode := rfl
@[simp] theorem State.emit_tIter (s : State) (e : Event) : (s.emit e).tIter = s.tIter := rfl
@[simp] theorem State.emit_tLast (s : State) (e : Event) : (s.emit e).tLast = s.tLast := rfl
@[simp] theorem State.emit_iterCnt (s : State) (e : Event) : (s.emit e).iterCnt = s.iterCnt := rfl
@[simp] theorem State.emit_seqState (s : State) (e : Event) : (s.emit e).seqState = s.seqState := rfl
@[simp] theorem State.emit_seqRem (s : State) (e : Event) : (s.emit e).seqRem = s.seqRem := rfl
@[simp] theorem State.emit_seqEnd (s : State) (e : Event) : (s.emit e).seqEnd = s.seqEnd := rfl
@[simp] theorem State.emit_dutyOut (s : State) (e : Event) : (s.emit e).dutyOut = s.dutyOut := rfl
@[simp] theorem State.emit_indLevel (s : State) (e : Event) : (s.emit e).indLevel = s.indLevel := rfl
@[simp] theorem State.emit_faultCode (s : State) (e : Event) : (s.emit e).faultCode = s.faultCode := rfl
@[simp] theorem State.emit_table (s : State) (e : Event) : (s.emit e).table = s.table := rfl
@[simp] theorem State.emit_env (s : State) (e : Event) : (s.emit e).env = s.env := rfl
@[simp] theorem State.emit_drawNo (s : State) (e : Event) : (s.emit e).drawNo = s.drawNo := rfl
@[simp] theorem State.emit_out (s : State) (e : Event) : (s.emit e).out = s.out ++ [e] := rfl

/-! ### `trace` -/

@[simp] theorem State.trace_cfg (s : State) (i : Instr) : (s.trace i).cfg = s.cfg := rfl
@[simp] theorem State.trace_phase (s : State) (i : Instr) : (s.trace i).phase = s.phase := rfl
@[simp] theorem State.trace_fillIdx (s : State) (i : Instr) : (s.trace i).fillIdx = s.fillIdx := rfl
@[simp] theorem State.trace_cursor (s : State) (i : Instr) : (s.trace i).cursor = s.cursor := rfl
@[simp] theorem State.trace_mode (s : State) (i : Instr) : (s.trace i).mode = s.mode := rfl
@[simp] theorem State.trace_nextDuty (s : State) (i : Instr) : (s.trace i).nextDuty = s.nextDuty := rfl
@[simp] theorem State.trace_nextMode (s : State) (i : Instr) : (s.trace i).nextMode = s.nextMode := rfl
@[simp] theorem State.trace_tIter (s : State) (i : Instr) : (s.trace i).tIter = s.tIter := rfl
@[simp] theorem State.trace_tLast (s : State) (i : Instr) : (s.trace i).tLast = s.tLast := rfl
@[simp] theorem State.trace_iterCnt (s : State) (i : Instr) : (s.trace i).iterCnt = s.iterCnt := rfl
@[simp] theorem State.trace_seqState (s : State) (i : Instr) : (s.trace i).seqState = s.seqState := rfl
@[simp] theorem State.trace_seqRem (s : State) (i : Instr) : (s.trace i).seqRem = s.seqRem := rfl
@[simp] theorem State.trace_seqEnd (s : State) (i : Instr) : (s.trace i).seqEnd = s.seqEnd := rfl
@[simp] theorem State.trace_dutyOut (s : State) (i : Instr) : (s.trace i).dutyOut = s.dutyOut := rfl
@[simp] theorem State.trace_indLevel (s : State) (i : Instr) : (s.trace i).indLevel = s.indLevel := rfl
@[simp] theorem State.trace_faultCode (s : State) (i : Instr) : (s.trace i).faultCode = s.faultCode := rfl
@[simp] theorem State.trace_table (s : State) (i : Instr) : (s.trace i).table = s.table := rfl
@[simp] theorem State.trace_env (s : State) (i : Instr) : (s.trace i).env = s.env := rfl
@[simp] theorem State.trace_drawNo (s : State) (i : Instr) : (s.trace i).drawNo = s.drawNo := rfl
@[simp] theorem State.trace_out (s : State) (i : Instr) : (s.trace i).out = s.out ++ [.trace (encode i)] := rfl

/-! ### `drive` -/

@[simp] theorem State.drive_cfg (s : State) (l : Level) : (s.drive l).cfg = s.cfg := rfl
@[simp] theorem State.drive_phase (s : State) (l : Level) : (s.drive l).phase = s.phase := rfl
@[simp] theorem State.drive_fillIdx (s : State) (l : Level) : (s.drive l).fillIdx = s.fillIdx := rfl
@[simp] theorem State.drive_cursor (s : State) (l : Level) : (s.drive l).cursor = s.cursor := rfl
@[simp] theorem State.drive_mode (s : State) (l : Level) : (s.drive l).mode = s.mode := rfl
@[simp] theorem State.drive_nextDuty (s : State) (l : Level) : (s.drive l).nextDuty = s.nextDuty := rfl
@[simp] theorem State.drive_nextMode (s : State) (l : Level) : (s.drive l).nextMode = s.nextMode := rfl
@[simp] theorem State.drive_tIter (s : State) (l : Level) : (s.drive l).tIter = s.tIter := rfl
@[simp] theorem State.drive_tLast (s : State) (l : Level) : (s.drive l).tLast = s.tLast := rfl
@[simp] theorem State.drive_iterCnt (s : State) (l : Level) : (s.drive l).iterCnt = s.iterCnt := rfl
@[simp] theorem State.drive_seqState (s : State) (l : Level) : (s.drive l).seqState = s.seqState := rfl
@[simp] theorem State.drive_seqRem (s : State) (l : Level) : (s.drive l).seqRem = s.seqRem := rfl
@[simp] theorem State.drive_seqEnd (s : State) (l : Level) : (s.drive l).seqEnd = s.seqEnd := rfl
@[simp] theorem State.drive_dutyOut (s : State) (l : Level) : (s.drive l).dutyOut = s.dutyOut := rfl
@[simp] theorem State.drive_indLevel (s : State) (l : Level) : (s.drive l).indLevel = some l := rfl
@[simp] theorem State.drive_faultCode (s : State) (l : Level) : (s.drive l).faultCode = s.faultCode := rfl
@[simp] theorem State.drive_table (s : State) (l : Level) : (s.drive l).table = s.table := rfl
@[simp] theorem State.drive_env (s : State) (l : Level) : (s.drive l).env = s.env := rfl
@[simp] theorem State.drive_drawNo (s : State) (l : Level) : (s.drive l).drawNo = s.drawNo := rfl
@[simp] theorem State.drive_out (s : State) (l : Level) : (s.drive l).out = s.out ++ [.indSet s.cfg.indPin (pinLevel s.cfg l)] := rfl

/-! ### `applyDuty` -/

@[simp] theorem State.applyDuty_cfg (s : State) (d : Nat) : (s.applyDuty d).cfg = s.cfg := rfl
@[simp] theorem State.applyDuty_phase (s : State) (d : Nat) : (s.applyDuty d).phase = s.phase := rfl
@[simp] theorem State.applyDuty_fillIdx (s : State) (d : Nat) : (s.applyDuty d).fillIdx = s.fillIdx := rfl
@[simp] theorem State.applyDuty_cursor (s : State) (d : Nat) : (s.applyDuty d).cursor = s.cursor := rfl
@[simp] theorem State.applyDuty_mode (s : State) (d : Nat) : (s.applyDuty d).mode = s.mode := rfl
@[simp] theorem State.applyDuty_nextDuty (s : State) (d : Nat) : (s.applyDuty d).nextDuty = s.nextDuty := rfl
@[simp] theorem State.applyDuty_nextMode (s : State) (d : Nat) : (s.applyDuty d).nextMode = s.nextMode := rfl
@[simp] theorem State.applyDuty_tIter (s : State) (d : Nat) : (s.applyDuty d).tIter = s.tIter := rfl
@[simp] theorem State.applyDuty_tLast (s : State) (d : Nat) : (s.applyDuty d).tLast = s.tLast := rfl
@[simp] theorem State.applyDuty_iterCnt (s : State) (d : Nat) : (s.applyDuty d).iterCnt = s.iterCnt := rfl
@[simp] theorem State.applyDuty_seqState (s : State) (d : Nat) : (s.applyDuty d).seqState = s.seqState := rfl
@[simp] theorem State.applyDuty_seqRem (s : State) (d : Nat) : (s.applyDuty d).seqRem = s.seqRem := rfl
@[simp] theorem State.applyDuty_seqEnd (s : State) (d : Nat) : (s.applyDuty d).seqEnd = s.seqEnd := rfl
@[simp] theorem State.applyDuty_dutyOut (s : State) (d : Nat) : (s.applyDuty d).dutyOut = some d := rfl
@[simp] theorem State.applyDuty_indLevel (s : State) (d : Nat) : (s.applyDuty d).indLevel = s.indLevel := rfl
@[simp] theorem State.applyDuty_faultCode (s : State) (d : Nat) : (s.applyDuty d).faultCode = s.faultCode := rfl
@[simp] theorem State.applyDuty_table (s : State) (d : Nat) : (s.applyDuty d).table = s.table := rfl
@[simp] theorem State.applyDuty_env (s : State) (d : Nat) : (s.applyDuty d).env = s.env := rfl
@[simp] theorem State.applyDuty_drawNo (s : State) (d : Nat) : (s.applyDuty d).drawNo = s.drawNo := rfl
@[simp] theorem State.applyDuty_out (s : State) (d : Nat) : (s.applyDuty d).out = s.out ++ [.pwmSetDuty s.cfg.pwmChannel d] ++ [.pwmCommit s.cfg.pwmChannel] := rfl

/-! ### `raise` -/

@[simp] theorem State.raise_cfg (s : State) (c : FaultCode) : (s.raise c).cfg = s.cfg := rfl
@[simp] theorem State.raise_phase (s : State) (c : FaultCode) : (s.raise c).phase = .fault := rfl
@[simp] theorem State.raise_fillIdx (s : State) (c : FaultCode) : (s.raise c).fillIdx = s.fillIdx := rfl
@[simp] theorem State.raise_cursor (s : State) (c : FaultCode) : (s.raise c).cursor = s.cursor := rfl
@[simp] theorem State.raise_mode (s : State) (c : FaultCode) : (s.raise c).mode = s.mode := rfl
@[simp] theorem State.raise_nextDuty (s : State) (c : FaultCode) : (s.raise c).nextDuty = s.nextDuty := rfl
@[simp] theorem State.raise_nextMode (s : State) (c : FaultCode) : (s.raise c).nextMode = s.nextMode := rfl
@[simp] theorem State.raise_tIter (s : State) (c : FaultCode) : (s.raise c).tIter = s.tIter := rfl
@[simp] theorem State.raise_tLast (s : State) (c : FaultCode) : (s.raise c).tLast = s.tLast := rfl
@[simp] theorem State.raise_iterCnt (s : State) (c : FaultCode) : (s.raise c).iterCnt = s.iterCnt := rfl
@[simp] theorem State.raise_seqState (s : State) (c : FaultCode) : (s.raise c).seqState = s.seqState := rfl
@[simp] theorem State.raise_seqRem (s : State) (c : FaultCode) : (s.raise c).seqRem = s.seqRem := rfl
@[simp] theorem State.raise_seqEnd (s : State) (c : FaultCode) : (s.raise c).seqEnd = s.seqEnd := rfl
@[simp] theorem State.raise_dutyOut (s : State) (c : FaultCode) : (s.raise c).dutyOut = s.dutyOut := rfl
@[simp] theorem State.raise_indLevel (s : State) (c : FaultCode) : (s.raise c).indLevel = s.indLevel := rfl
@[simp] theorem State.raise_faultCode (s : State) (c : FaultCode) : (s.raise c).faultCode = c.code := rfl
@[simp] theorem State.raise_table (s : State) (c : FaultCode) : (s.raise c).table = s.table := rfl
@[simp] theorem State.raise_env (s : State) (c : FaultCode) : (s.raise c).env = s.env := rfl
@[simp] theorem State.raise_drawNo (s : State) (c : FaultCode) : (s.raise c).drawNo = s.drawNo := rfl
@[simp] theorem State.raise_out (s : State) (c : FaultCode) : (s.raise c).out = s.out ++ [.trace (encode (.fault s.mode c.val))] := rfl

/-! ### `restart` -/

@[simp] theorem State.restart_cfg (s : State) : s.restart.cfg = s.cfg := rfl
@[simp] theorem State.restart_phase (s : State) : s.restart.phase = State.reset.phase := rfl
@[simp] theorem State.restart_fillIdx (s : State) : s.restart.fillIdx = State.reset.fillIdx := rfl
@[simp] theorem State.restart_cursor (s : State) : s.restart.cursor = State.reset.cursor := rfl
@[simp] theorem State.restart_mode (s : State) : s.restart.mode = State.reset.mode := rfl
@[simp] theorem State.restart_nextDuty (s : State) : s.restart.nextDuty = State.reset.nextDuty := rfl
@[simp] theorem State.restart_nextMode (s : State) : s.restart.nextMode = State.reset.nextMode := rfl
@[simp] theorem State.restart_tIter (s : State) : s.restart.tIter = State.reset.tIter := rfl
@[simp] theorem State.restart_tLast (s : State) : s.restart.tLast = State.reset.tLast := rfl
@[simp] theorem State.restart_iterCnt (s : State) : s.restart.iterCnt = State.reset.iterCnt := rfl
@[simp] theorem State.restart_seqState (s : State) : s.restart.seqState = State.reset.seqState := rfl
@[simp] theorem State.restart_seqRem (s : State) : s.restart.seqRem = State.reset.seqRem := rfl
@[simp] theorem State.restart_seqEnd (s : State) : s.restart.seqEnd = State.reset.seqEnd := rfl
@[simp] theorem State.restart_dutyOut (s : State) : s.restart.dutyOut = State.reset.dutyOut := rfl
@[simp] theorem State.restart_indLevel (s : State) : s.restart.indLevel = State.reset.indLevel := rfl
@[simp] theorem State.restart_faultCode (s : State) : s.restart.faultCode = State.reset.faultCode := rfl
@[simp] theorem State.restart_table (s : State) : s.restart.table = State.reset.table := rfl
@[simp] theorem State.restart_env (s : State) : s.restart.env = s.env := rfl
@[simp] theorem State.restart_drawNo (s : State) : s.restart.drawNo = s.drawNo := rfl
@[simp] theorem State.restart_out (s : State) : s.restart.out = s.out := rfl

end Sys2Proof.Machine
end

