-- ==== Sys2Proof/Tests/Slice0.lean ====
section
/-! SUPPORT. The model's own tests. The expected results of the decode tests and of the step tests are those of
spec/95_test_vectors.md (the vector's number is in the docstring) or hand calculation from the named rule; the witness
theorems show, for every obligation with hypotheses, states that meet them. -/

namespace Sys2Proof.Tests

open Sys2Proof.Machine

/-! ## Ill-formed operations are refused (R85 (c)), under REF: M = 6, N = 4096, [MIN, MAX] = [51, 204] -/

theorem test_mode_too_large : (Instr.sample 6).wellFormed Cfg.start = false := by decide
theorem test_start_without_modes : Instr.start.wellFormed { Cfg.start with m := 0 } = false := by decide
theorem test_index_too_large : (Instr.fill 0 4096 60).wellFormed Cfg.start = false := by decide
theorem test_value_below_min : (Instr.fill 0 0 50).wellFormed Cfg.start = false := by decide
theorem test_value_above_max : (Instr.fill 0 0 205).wellFormed Cfg.start = false := by decide
theorem test_count_zero : (Instr.sigStart 1 0).wellFormed Cfg.start = false := by decide
theorem test_count_above_m : (Instr.sigWait true 1 7).wellFormed Cfg.start = false := by decide
theorem test_count_left_too_large : (Instr.sigOnEnd 1 6).wellFormed Cfg.start = false := by decide
theorem test_count_between_zero : (Instr.sigOffEnd 1 0).wellFormed Cfg.start = false := by decide
theorem test_count_between_too_large : (Instr.sigOffEnd 1 6).wellFormed Cfg.start = false := by decide
theorem test_code_zero : (Instr.fault 0 0).wellFormed Cfg.start = false := by decide
theorem test_code_seven : (Instr.fault 0 7).wellFormed Cfg.start = false := by decide
theorem test_duty_fired_value : (Instr.dutyCheck true 0 0 0).wellFormed Cfg.start = false := by decide
theorem test_duty_unfired_index : (Instr.dutyCheck false 0 1 0).wellFormed Cfg.start = false := by decide
theorem test_signal_count_wrong : (Instr.modeCheck true 1 3).wellFormed Cfg.start = false := by decide
theorem test_signal_count_unfired : (Instr.modeCheck false 1 2).wellFormed Cfg.start = false := by decide

/-! ## Decoding: one word of section 2.1 for every operation, and the words it calls INVALID -/

theorem test_decode_reset : verdict Cfg.start 0x00000000#32 = .ok .reset := by decide
theorem test_decode_init : verdict Cfg.start 0x10000000#32 = .ok (.init 0) := by decide
theorem test_decode_fill : verdict Cfg.start 0x200FFF33#32 = .ok (.fill 0 4095 51) := by decide
theorem test_decode_start : verdict Cfg.start 0x30000000#32 = .ok .start := by decide
theorem test_decode_sample : verdict Cfg.start 0x40000000#32 = .ok (.sample 0) := by decide
theorem test_decode_duty_check : verdict Cfg.start 0x5D0FFF8E#32 = .ok (.dutyCheck true 5 4095 142) := by decide
theorem test_decode_mode_check : verdict Cfg.start 0x69000002#32 = .ok (.modeCheck true 1 2) := by decide
theorem test_decode_iter_end : verdict Cfg.start 0x78000000#32 = .ok (.iterEnd true 0) := by decide
theorem test_decode_yield : verdict Cfg.start 0x83000000#32 = .ok (.yield 3) := by decide
theorem test_decode_sig_start : verdict Cfg.start 0x99000002#32 = .ok (.sigStart 1 2) := by decide
theorem test_decode_sig_wait : verdict Cfg.start 0xA1000001#32 = .ok (.sigWait false 1 1) := by decide
theorem test_decode_sig_on_end : verdict Cfg.start 0xB1000000#32 = .ok (.sigOnEnd 1 0) := by decide
theorem test_decode_sig_off_end : verdict Cfg.start 0xC9000001#32 = .ok (.sigOffEnd 1 1) := by decide
theorem test_decode_fault : verdict Cfg.start 0xF7000006#32 = .ok (.fault 7 6) := by decide

/-- Words with a field that R84 fixes at another value (R85 (b), (d)). -/
theorem test_refuse_fixed_fields :
    verdict Cfg.start 0x31000000#32 = .error .fieldFixed ∧
    verdict Cfg.start 0x40000001#32 = .error .fieldFixed ∧
    verdict Cfg.start 0x91000002#32 = .error .fieldFixed ∧
    verdict Cfg.start 0xB9000001#32 = .error .fieldFixed ∧
    verdict Cfg.start 0x10000100#32 = .error .fieldFixed ∧
    verdict Cfg.start 0x88000000#32 = .error .fieldFixed := by decide

/-- Words with a field out of its range (R85 (c)). -/
theorem test_refuse_ranges :
    verdict Cfg.start 0x20000032#32 = .error .fieldRange ∧
    verdict Cfg.start 0x50000100#32 = .error .fieldRange ∧
    verdict Cfg.start 0x58000000#32 = .error .fieldRange ∧
    verdict Cfg.start 0x69000003#32 = .error .fieldRange ∧
    verdict Cfg.start 0x66000000#32 = .error .fieldRange ∧
    verdict Cfg.start 0xC9000000#32 = .error .fieldRange ∧
    verdict Cfg.start 0xF0000000#32 = .error .fieldRange ∧
    verdict Cfg.start 0xF0000007#32 = .error .fieldRange := by decide

/-- The reserved operation codes (R86). -/
theorem test_refuse_reserved :
    verdict Cfg.start 0xD0000000#32 = .error .reservedOp ∧
    verdict Cfg.start 0xE0000000#32 = .error .reservedOp := by decide

/-- The textual form of section 2.1 (R88), every field written. -/
theorem test_text : (Instr.dutyCheck true 5 4095 142).text = "DUTY_CHECK f=1 md=5 idx=4095 val=142" := by decide

/-- The host's numbering is the table's: bits above the row's are no part of the word. -/
theorem test_table_word : decodeTableWord 32 0x83000000 = some (.yield 3) ∧ decodeTableWord 32 0xD0000000 = none := by
  decide

/-! ## Steps -/

/-- REF with N = 6. -/
def small : Cfg := { Cfg.start with n := 6 }

/-- What the environment presents: the clock, an entropy draw, both peripheral answers. -/
def clock (clk : Time) (entropy : Byte := 60) (cfgOk wrOk : Bool := true) : Inputs := ⟨false, clk, entropy, cfgOk, wrOk⟩

/-- A reset request. -/
def request : Inputs := ⟨true, 0, 0, true, true⟩

/-- A state of the update loop under REF with N = 6 and the first six entries of TBL, the indicator off, and the next
step's inputs. -/
def looping (p : Phase) (e : Inputs) : State :=
  { State.reset with
    cfg := small, phase := p, fillIdx := 6, indLevel := some .off, env := [e]
    table := [(0, 51), (1, 52), (2, 53), (3, 54), (4, 55), (5, 56)] }

/-- A state in a feedback signal. -/
def signalling (q : SeqState) (rem : BitVec 4) (until_ : Time) (e : Inputs) : State :=
  { looping .signal e with
    mode := 1, seqState := q, seqRem := rem, seqEnd := until_, tLast := 200001
    indLevel := some (if q = .on then .on else .off) }

/-- A state after reset whose next step finds these inputs. -/
def fresh (c : Cfg) (e : Inputs) : State := { State.reset with cfg := c, env := [e] }

/-- What the next state of a step shows through `f`. -/
def seen {α : Type} (r : Result) (f : State → α) : Option α :=
  match r with
  | .next t => some (f t)
  | _ => none

/-- Vector R1. -/
theorem test_reset :
    seen (step { looping .fault request with faultCode := 3, dutyOut := some 204 })
        (fun t => (t.out, t.phase, t.faultCode, t.dutyOut))
      = some ([.trace 0x00000000#32], .init, 0, none) := by decide

/-- Vector G1. -/
theorem test_init :
    seen (step (fresh Cfg.start (clock 0))) (fun t => (t.out, t.indLevel, t.phase))
      = some ([.pwmConfigure 0 0, .indSet 0 .low, .trace 0x10000000#32], some .off, .fill) := by decide

/-- Vector G2, N = 0: nothing but the FAULT word. -/
theorem test_init_invalid :
    seen (step (fresh { Cfg.start with n := 0 } (clock 0))) (fun t => (t.out, t.faultCode, t.indLevel))
      = some ([.trace 0xF0000001#32], 1, none) := by decide

/-- Vector G6: the last entry of a table of one. -/
theorem test_fill_last :
    seen (step { fresh { Cfg.start with n := 1 } (clock 0 204) with phase := .fill })
        (fun t => (t.out, t.table, t.fillIdx, t.phase))
      = some ([.trace 0x200000CC#32], [(0, 204)], 1, .start) := by decide

/-- Vector G8. -/
theorem test_fill :
    seen (step { fresh Cfg.start (clock 0 100) with phase := .fill, fillIdx := 7 })
        (fun t => (t.out, t.table.read 7, t.fillIdx, t.phase))
      = some ([.trace 0x20000764#32], some 100, 8, .fill) := by decide

/-- Vector G9. -/
theorem test_start :
    seen (step (looping .start (clock 7))) (fun t => (t.out, t.nextDuty, t.nextMode, t.tLast, t.phase))
      = some ([.trace 0x30000000#32], 7, 200007, 7, .sample) := by decide

/-- Vector G10: T + MOFF overflows. -/
theorem test_start_overflow :
    seen (step (looping .start (clock (BitVec.allOnes 64)))) (fun t => (t.out, t.nextDuty))
      = some ([.trace 0xF0000004#32], 0) := by decide

/-- Vector L1: an equal sample is allowed. -/
theorem test_sample :
    seen (step { looping .sample (clock 500) with tLast := 500, tIter := 400 }) (fun t => (t.out, t.tIter, t.phase))
      = some ([.trace 0x40000000#32], 500, .duty) := by decide

/-- Vector L2: a sample below the last one. -/
theorem test_sample_backward :
    seen (step { looping .sample (clock 499) with tLast := 500, tIter := 400 }) (fun t => (t.out, t.tIter, t.tLast))
      = some ([.trace 0xF0000003#32], 400, 500) := by decide

/-- Vector D2, with the cursor's wrap at N = 6. -/
theorem test_duty_check :
    seen (step { looping .duty (clock 0) with tLast := 1000, tIter := 1000, nextDuty := 1000, cursor := 5 })
        (fun t => (t.out, t.cursor, t.nextDuty, t.dutyOut))
      = some ([.pwmSetDuty 0 224, .pwmCommit 0, .trace 0x58000538#32], 0, 2000, some 224) := by decide

/-- Vector D6: the write fails after everything is written. -/
theorem test_duty_check_write_failed :
    seen (step { looping .duty (clock 0 60 true false) with tLast := 1000, tIter := 1000, nextDuty := 1000 })
        (fun t => (t.out, t.cursor, t.nextDuty, t.faultCode))
      = some ([.pwmSetDuty 0 204, .pwmCommit 0, .trace 0x58000033#32, .trace 0xF0000005#32], 1, 2000, 5) := by decide

/-- Vector X2. -/
theorem test_mode_check :
    seen (step { looping .mode (clock 0) with tLast := 200000, tIter := 200000, nextMode := 200000, nextDuty := 9 })
        (fun t => (t.out, t.mode, t.nextMode, t.seqRem, t.nextDuty))
      = some ([.modeChanged 1, .trace 0x69000002#32], 1, 400000, 2, 9) := by decide

/-- Vector X3: the mode wraps to 0. -/
theorem test_mode_check_wrap :
    seen (step { looping .mode (clock 0) with tLast := 1200000, tIter := 1200000, nextMode := 1200000, mode := 5 })
        (fun t => (t.out, t.mode, t.nextMode, t.seqRem))
      = some ([.modeChanged 0, .trace 0x68000001#32], 0, 1400000, 1) := by decide

/-- Vector I1. -/
theorem test_iter_end_yield :
    seen (step { looping .iterEnd (clock 0) with iterCnt := 63 }) (fun t => (t.out, t.iterCnt, t.phase))
      = some ([.trace 0x78000000#32], 0, .yield) := by decide

/-- Vector I2. -/
theorem test_iter_end :
    seen (step { looping .iterEnd (clock 0) with iterCnt := 10 }) (fun t => (t.out, t.iterCnt, t.phase))
      = some ([.trace 0x70000000#32], 11, .sample) := by decide

/-- Vector Y1. -/
theorem test_yield :
    seen (step { looping .yield (clock 0) with mode := 3 }) (fun t => (t.out, t.phase))
      = some ([.yieldReq, .trace 0x83000000#32], .sample) := by decide

/-- Vector F1. -/
theorem test_sig_start :
    seen (step { looping .sigStart (clock 200001) with mode := 1, seqRem := 2, tLast := 200000 })
        (fun t => (t.out, t.seqEnd, t.indLevel, t.phase))
      = some ([.indSet 0 .high, .trace 0x99000002#32], 215001, some .on, .signal) := by decide

/-- Vector F3. -/
theorem test_sig_wait_on :
    seen (step (signalling .on 2 215001 (clock 215000))) (fun t => (t.out, t.tLast, t.seqEnd))
      = some ([.trace 0xA9000002#32], 215000, 215001) := by decide

/-- Vector F5. -/
theorem test_sig_on_end :
    seen (step (signalling .on 2 215001 (clock 215001))) (fun t => (t.out, t.seqRem, t.seqState, t.seqEnd))
      = some ([.indSet 0 .low, .trace 0xB1000001#32], 1, .off, 230001) := by decide

/-- Vector F6: the last pulse. -/
theorem test_sig_on_end_last :
    seen (step (signalling .on 1 245001 (clock 245001))) (fun t => (t.out, t.seqState, t.phase, t.seqEnd))
      = some ([.indSet 0 .low, .trace 0xB1000000#32], .idle, .iterEnd, 245001) := by decide

/-- Vector F10: the next pulse is timed from the late sample. -/
theorem test_sig_off_end :
    seen (step (signalling .off 1 230001 (clock 240000))) (fun t => (t.out, t.seqEnd, t.seqState))
      = some ([.indSet 0 .high, .trace 0xC9000001#32], 255000, .on) := by decide

/-- Vector N1. -/
theorem test_reserved_phase :
    seen (step (looping (.reserved 1) (clock 0))) (fun t => (t.out, t.phase)) = some ([.trace 0xF0000006#32], .fault) := by
  decide

/-- Vector E5. -/
theorem test_quiescent :
    seen (step { looping .fault (clock 0) with faultCode := 3 }) (fun t => (t.out, t.faultCode, t.phase))
      = some ([], 3, .fault) := by decide

/-- The status outputs (R43): the code of a reserved phase (R22), the mode and the fault code. -/
theorem test_status :
    { looping (.reserved 1) (clock 0) with mode := 3, faultCode := 6 }.status = ⟨12, 3, 6⟩ := by decide

/-- Section 2.2, NATIVE_MAX = 1023. -/
theorem test_scale : [0, 1, 50, 51, 127, 128, 203, 204, 254, 255].map (scale 1023)
    = [0, 4, 200, 204, 509, 513, 814, 818, 1018, 1023] := by decide

/-! ## Witnesses: for every obligation with hypotheses, states that meet them, one per clause

Values stand at a clause's boundary where it has one: a sample equal to `t_last` or one below it, a deadline equal to
`t_iter` or one above it, the largest time that does not overflow and the smallest that does. -/

/-- The state `s` meets the hypotheses `p`. -/
abbrev Meets (s : State) (p : State → Prop) : Prop := p s

/-- The largest time value. -/
def top : Time := BitVec.allOnes 64

/-- A table of one entry, so that N = 1 and every index is 0. -/
def single : Cfg := { Cfg.start with n := 1, m := 1, interval := [1000] }

/-- A state of the update loop under `single`. -/
def looping1 (p : Phase) (es : List Inputs) : State :=
  { State.reset with cfg := single, phase := p, fillIdx := 1, indLevel := some .off, env := es, table := [(0, 51)] }

/-- The invariant of a state outside INIT whose table is the one entry 0: its decidable parts. -/
theorem inv_single {s : State} {v : Byte} (ht : s.table = [(0, v)]) (hf : s.fillIdx = 1)
    (hv : s.cfg.min ≤ v.toNat ∧ v.toNat ≤ s.cfg.max) (hd : s.dutyOut = none)
    (hp : s.phase ≠ .init ∧ s.phase ≠ .fault ∧ s.faultCode = 0) (hw : s.WF)
    (hi : s.indLevel = some (if s.phase = .signal ∧ s.seqState = .on then .on else .off))
    (hs : (s.phase = .sigStart → s.seqRem.toNat = signalCount s.mode) ∧
      (s.phase = .signal → s.seqState = .on → s.seqRem.toNat ≤ signalCount s.mode) ∧
      (s.phase = .signal → s.seqState = .off → s.seqRem.toNat < signalCount s.mode) ∧
      (s.phase.inSignal = false → s.seqRem = 0))
    (he : s.phase = .signal → s.tLast < s.seqEnd) : Inv s where
  canonical := by simp [ht, Memory.wf, Memory.risesFrom]
  legal := hw.2.1
  faulted := by simp [hp]
  timeOrder := hw.2.2.2.2.2.1
  atInit h := absurd h hp.1
  wellFormed _ _ := hw
  tableBounds i w h := by
    rw [ht] at h
    by_cases h0 : 0 = i
    · subst h0
      simp only [Memory.read, if_true, Option.some.injEq] at h
      subst h
      exact ⟨by simp [hf], hv⟩
    · simp [Memory.read, h0] at h
  tableFilled i h := by
    have h0 : i = 0 := by
      rw [hf] at h
      simpa using h
    simp [ht, h0, Memory.read]
  dutyBound d h := by simp [hd] at h
  indicator _ _ := hi
  pulses _ _ := hs
  pulseEnd := he

/-- A state of phase DUTY with the invariant and its duty deadline due. -/
def dutyNow : State := { looping1 .duty [clock 0, clock 0, clock 1000, clock 1000] with nextMode := 200000 }

theorem inv_dutyNow : Inv dutyNow :=
  inv_single (v := 51) rfl rfl (by decide) rfl (by decide) (by decide) (by decide) (by decide) (by decide)

/-- A state that starts a signal of one pulse. -/
def signalNow : State :=
  { looping1 .sigStart [clock 5, clock 15005] with seqRem := 1 }

theorem inv_signalNow : Inv signalNow :=
  inv_single (v := 51) rfl rfl (by decide) rfl (by decide) (by decide) (by decide) (by decide) (by decide)

/-- A state of phase MODE with its deadline due. -/
def modeNow : State :=
  { looping1 .mode [clock 0, clock 0, clock 15000, clock 15000, clock 200000, clock 200000] with
    nextMode := 0, nextDuty := 900000 }

theorem inv_modeNow : Inv modeNow :=
  inv_single (v := 51) rfl rfl (by decide) rfl (by decide) (by decide) (by decide) (by decide) (by decide)

/-- The next state of a step; the state itself where there is none. -/
def stepTo (s : State) : State :=
  match step s with
  | .next t => t
  | _ => s

/-- A `cfg` on either side of NATIVE_MAX = 255, and at it and at 1. -/
theorem witness_ScaleCoversTheNativeRange_corners :
    ∀ n ∈ [1, 254, 255, 256], Valid { Cfg.start with nativeMax := n } := by decide

theorem witness_DecodeThenEncode : decode 0x5D0FFF8E#32 = .ok (.dutyCheck true 5 4095 142) := by decide

/-- A valid `cfg` with its fields at their smallest, and one with them at their largest (R101). -/
theorem witness_ScaleCoversTheNativeRange :
    Valid { Cfg.start with
      n := 1, min := 0, max := 0, m := 1, interval := [1], msi := 1, tOn := 1, tOff := 1
      mOff := 0, nativeMax := 1, nativeW := 1, k := 1 } ∧
    Valid { Cfg.start with
      n := 65536, min := 255, max := 255, m := 8, interval := [4294967295, 1, 1, 1, 1, 1, 1, 1], msi := 4294967295
      dOff := 4294967295, mOff := 4294967295, k := 4294967295 } := by
  decide

theorem witness_EmittedWordsAreValid :
    Inv dutyNow ∧ step dutyNow = .next (stepTo dutyNow) ∧ .trace 0x58000033#32 ∈ (stepTo dutyNow).out :=
  ⟨inv_dutyNow, rfl, by decide⟩

/-- A step without a fault, one with a precise fault, and one with a failed write. -/
theorem witness_OneTraceWordPerStep :
    (dutyNow.selected = some (.dutyCheck true 0 0 51) ∧ step dutyNow = .next (stepTo dutyNow) ∧
      (stepTo dutyNow).phase ≠ .fault) ∧
    (Meets (looping (.reserved 1) (clock 0)) fun s =>
      s.selected = some (.fault 0 6) ∧ step s = .next (stepTo s) ∧ (stepTo s).phase = .fault ∧
      (stepTo s).faultCode = 6) ∧
    (Meets { looping .duty (clock 0 60 true false) with cursor := 5 } fun s =>
      s.selected = some (.dutyCheck true 0 5 56) ∧ step s = .next (stepTo s) ∧ (stepTo s).phase = .fault ∧
      (stepTo s).faultCode = 5) :=
  ⟨⟨by decide, rfl, by decide⟩, ⟨by decide, rfl, by decide, by decide⟩, ⟨by decide, rfl, by decide, by decide⟩⟩

theorem witness_StepRunsTheDecodedOperation :
    (dutyNow.selectedWord = some 0x58000033#32 ∧ decode 0x58000033#32 = .ok (.dutyCheck true 0 0 51)) ∧
    (looping .fault (clock 0)).selectedWord = none := by decide

/-- Every clause's phase is one of `looping`; the three clauses of SIGNAL and the reset request. -/
theorem witness_NextOperationByPhase :
    (looping .fault request).inputs.rst = true ∧
    (∀ p, (looping p (clock 0)).inputs.rst = false ∧ (looping p (clock 0)).phase = p) ∧
    (Meets (signalling .on 2 215001 (clock 215000)) fun s =>
      s.inputs.rst = false ∧ s.phase = .signal ∧ s.inputs.clk < s.seqEnd) ∧
    (Meets (signalling .on 2 215001 (clock 215001)) fun s =>
      s.inputs.rst = false ∧ s.phase = .signal ∧ s.seqEnd ≤ s.inputs.clk ∧ s.seqState = .on) ∧
    (Meets (signalling .off 1 215001 (clock 215001)) fun s =>
      s.inputs.rst = false ∧ s.phase = .signal ∧ s.seqEnd ≤ s.inputs.clk ∧ s.seqState ≠ .on) ∧
    (looping (.reserved 0) (clock 0)).phase.legal = false :=
  ⟨by decide, fun _ => ⟨rfl, rfl⟩, by decide, by decide, by decide, by decide⟩

/-- One operation of every kind that has fields, each at a bound of its range. -/
theorem witness_WithFetchWordIsPerformedNext :
    Valid small ∧
    (∀ i ∈ [Instr.reset, .init 5, .fill 5 5 204, .start, .sample 5, .dutyCheck true 5 5 51, .dutyCheck false 5 0 0,
        .modeCheck true 0 1, .iterEnd true 5, .iterEnd false 0, .yield 5, .sigStart 5 6, .sigWait false 0 1,
        .sigOnEnd 5 5, .sigOnEnd 5 0, .sigOffEnd 5 5],
      i.wellFormed small = true ∧ i.op ≠ .fault) ∧
    2 ≤ small.k := by decide

theorem witness_InitResult :
    (Meets (fresh small (clock 0)) fun s =>
      s.phase = .init ∧ Valid s.cfg ∧ s.inputs.cfgOk = true) ∧
    (Meets (fresh { small with n := 65537 } (clock 0)) fun s =>
      s.phase = .init ∧ ¬Valid s.cfg) ∧
    (Meets (fresh small (clock 0 60 false)) fun s =>
      s.phase = .init ∧ Valid s.cfg ∧ s.inputs.cfgOk = false) :=
  ⟨by decide, by decide, by decide⟩

theorem witness_FillResult :
    (Meets { fresh small (clock 0 51) with phase := .fill, fillIdx := 5 } fun s =>
      s.phase = .fill ∧ s.WF ∧ s.cfg.min ≤ s.inputs.entropy.toNat ∧ s.inputs.entropy.toNat ≤ s.cfg.max) ∧
    (Meets { fresh small (clock 0 51) with phase := .fill, fillIdx := 6 } fun s =>
      s.phase = .fill ∧ ¬s.WF) :=
  ⟨by decide, by decide⟩

theorem witness_FillRefusesEntropyOutOfRange :
    (Meets { fresh small (clock 0 50) with phase := .fill } fun s =>
      s.phase = .fill ∧ s.WF ∧ s.inputs.entropy.toNat < s.cfg.min) ∧
    (Meets { fresh small (clock 0 205) with phase := .fill } fun s =>
      s.phase = .fill ∧ s.WF ∧ s.cfg.max < s.inputs.entropy.toNat) ∧
    (Meets { fresh small (clock 0) with phase := .fill, env := [] } fun s =>
      s.phase = .fill ∧ s.WF ∧ s.env = []) :=
  ⟨by decide, by decide, by decide⟩

theorem witness_StartResult :
    (Meets (looping .start (clock (top - 200000))) fun s =>
      s.phase = .start ∧ s.WF ∧ s.tLast ≤ s.inputs.clk ∧ s.inputs.clk.toNat + s.cfg.dOff < 2 ^ 64 ∧
      s.inputs.clk.toNat + s.cfg.mOff < 2 ^ 64) ∧
    (Meets { looping .start (clock 0) with fillIdx := 5 } fun s =>
      s.phase = .start ∧ ¬s.WF) ∧
    (Meets { looping .start (clock 5) with tLast := 6 } fun s =>
      s.phase = .start ∧ s.WF ∧ s.inputs.clk < s.tLast) ∧
    (Meets (looping .start (clock (top - 199999))) fun s =>
      s.phase = .start ∧ s.WF ∧ s.tLast ≤ s.inputs.clk ∧ 2 ^ 64 ≤ s.inputs.clk.toNat + s.cfg.mOff) :=
  ⟨by decide, by decide, by decide, by decide⟩

theorem witness_SampleResult :
    (Meets { looping .sample (clock 6) with tLast := 6 } fun s =>
      s.phase = .sample ∧ s.WF ∧ s.tLast ≤ s.inputs.clk) ∧
    (Meets { looping .sample (clock 6) with mode := 6 } fun s =>
      s.phase = .sample ∧ ¬s.WF) ∧
    (Meets { looping .sample (clock 5) with tLast := 6 } fun s =>
      s.phase = .sample ∧ s.WF ∧ s.inputs.clk < s.tLast) :=
  ⟨by decide, by decide, by decide⟩

/-- A state of phase DUTY at the sample `t` with the deadline `d`. -/
def duty (t d : Time) (wrOk : Bool) : State :=
  { looping .duty (clock 0 60 true wrOk) with tIter := t, tLast := t, nextDuty := d, cursor := 5 }

theorem witness_DutyCheckResult :
    (Meets (duty 999 1000 true) fun s =>
      s.phase = .duty ∧ s.WF ∧ s.tIter < s.nextDuty) ∧
    (Meets (duty 1000 1000 true) fun s =>
      s.phase = .duty ∧ s.WF ∧ s.nextDuty ≤ s.tIter ∧
      s.tIter.toNat + s.cfg.interval.getD s.mode.toNat 0 < 2 ^ 64 ∧ s.inputs.wrOk = true) ∧
    (Meets (duty (top - 1000) 0 false) fun s =>
      s.phase = .duty ∧ s.WF ∧ s.nextDuty ≤ s.tIter ∧
      s.tIter.toNat + s.cfg.interval.getD s.mode.toNat 0 < 2 ^ 64 ∧ s.inputs.wrOk = false) ∧
    (Meets { duty 0 0 true with table := [] } fun s =>
      s.phase = .duty ∧ ¬s.WF) ∧
    (Meets (duty (top - 999) 0 true) fun s =>
      s.phase = .duty ∧ s.WF ∧ s.nextDuty ≤ s.tIter ∧
      ¬s.tIter.toNat + s.cfg.interval.getD s.mode.toNat 0 < 2 ^ 64) :=
  ⟨by decide, by decide, by decide, by decide, by decide⟩

/-- A state of phase MODE at the sample `t` with the deadline `d`. -/
def modeAt (t d : Time) : State := { looping .mode (clock 0) with tIter := t, tLast := t, nextMode := d, mode := 5 }

theorem witness_ModeCheckResult :
    (Meets (modeAt 999 1000) fun s =>
      s.phase = .mode ∧ s.WF ∧ s.tIter < s.nextMode) ∧
    (Meets (modeAt (top - 200000) (top - 200000)) fun s =>
      s.phase = .mode ∧ s.WF ∧ s.nextMode ≤ s.tIter ∧ s.tIter.toNat + s.cfg.msi < 2 ^ 64) ∧
    (Meets { modeAt 0 0 with seqState := .on } fun s =>
      s.phase = .mode ∧ ¬s.WF) ∧
    (Meets (modeAt (top - 199999) 0) fun s =>
      s.phase = .mode ∧ s.WF ∧ s.nextMode ≤ s.tIter ∧ 2 ^ 64 ≤ s.tIter.toNat + s.cfg.msi) :=
  ⟨by decide, by decide, by decide, by decide⟩

theorem witness_IterEndResult :
    (Meets { looping .iterEnd (clock 0) with iterCnt := 63 } fun s =>
      s.phase = .iterEnd ∧ s.WF ∧ s.iterCnt.toNat + 1 = s.cfg.k) ∧
    (Meets { looping .iterEnd (clock 0) with iterCnt := 62 } fun s =>
      s.phase = .iterEnd ∧ s.WF ∧ s.iterCnt.toNat + 1 ≠ s.cfg.k) ∧
    (Meets { looping .iterEnd (clock 0) with iterCnt := 64 } fun s =>
      s.phase = .iterEnd ∧ ¬s.WF) :=
  ⟨by decide, by decide, by decide⟩

theorem witness_YieldResult :
    (Meets (looping .yield (clock 0)) fun s =>
      s.phase = .yield ∧ s.WF) ∧
    (Meets { looping .yield (clock 0) with cursor := 6 } fun s =>
      s.phase = .yield ∧ ¬s.WF) :=
  ⟨by decide, by decide⟩

/-- A state of phase SIG_START with six pulses to come. -/
def starting (t last : Time) : State := { looping .sigStart (clock t) with seqRem := 6, mode := 5, tLast := last }

theorem witness_SigStartResult :
    (Meets (starting (top - 15000) (top - 15000)) fun s =>
      s.phase = .sigStart ∧ s.WF ∧ s.tLast ≤ s.inputs.clk ∧ s.inputs.clk.toNat + s.cfg.tOn < 2 ^ 64) ∧
    (Meets { starting 0 0 with seqRem := 0 } fun s =>
      s.phase = .sigStart ∧ ¬s.WF) ∧
    (Meets (starting 5 6) fun s =>
      s.phase = .sigStart ∧ s.WF ∧ s.inputs.clk < s.tLast) ∧
    (Meets (starting (top - 14999) 0) fun s =>
      s.phase = .sigStart ∧ s.WF ∧ s.tLast ≤ s.inputs.clk ∧ 2 ^ 64 ≤ s.inputs.clk.toNat + s.cfg.tOn) :=
  ⟨by decide, by decide, by decide, by decide⟩

theorem witness_SigWaitResult :
    (Meets (signalling .on 2 215001 (clock 215000)) fun s =>
      s.phase = .signal ∧ s.inputs.clk < s.seqEnd ∧ s.WF ∧ s.tLast ≤ s.inputs.clk) ∧
    (Meets (signalling .idle 2 215001 (clock 215000)) fun s =>
      s.phase = .signal ∧ s.inputs.clk < s.seqEnd ∧ ¬s.WF) ∧
    (Meets (signalling .on 2 215001 (clock 200000)) fun s =>
      s.phase = .signal ∧ s.inputs.clk < s.seqEnd ∧ s.WF ∧ s.inputs.clk < s.tLast) :=
  ⟨by decide, by decide, by decide⟩

theorem witness_SigOnEndResult :
    (Meets (signalling .on 1 215001 (clock top)) fun s =>
      s.phase = .signal ∧ s.seqEnd ≤ s.inputs.clk ∧ s.seqState = .on ∧ s.WF ∧ s.tLast ≤ s.inputs.clk ∧ s.seqRem = 1) ∧
    (Meets (signalling .on 2 (top - 15000) (clock (top - 15000))) fun s =>
      s.phase = .signal ∧ s.seqEnd ≤ s.inputs.clk ∧ s.seqState = .on ∧ s.WF ∧ s.tLast ≤ s.inputs.clk ∧
      s.seqRem ≠ 1 ∧ s.inputs.clk.toNat + s.cfg.tOff < 2 ^ 64) ∧
    (Meets (signalling .on 0 215001 (clock 215001)) fun s =>
      s.phase = .signal ∧ s.seqEnd ≤ s.inputs.clk ∧ s.seqState = .on ∧ ¬s.WF) ∧
    (Meets (signalling .on 2 200000 (clock 200000)) fun s =>
      s.phase = .signal ∧ s.seqEnd ≤ s.inputs.clk ∧ s.seqState = .on ∧ s.WF ∧ s.inputs.clk < s.tLast) ∧
    (Meets (signalling .on 2 215001 (clock (top - 14999))) fun s =>
      s.phase = .signal ∧ s.seqEnd ≤ s.inputs.clk ∧ s.seqState = .on ∧ s.WF ∧ s.tLast ≤ s.inputs.clk ∧
      s.seqRem ≠ 1 ∧ 2 ^ 64 ≤ s.inputs.clk.toNat + s.cfg.tOff) :=
  ⟨by decide, by decide, by decide, by decide, by decide⟩

theorem witness_SigOffEndResult :
    (Meets (signalling .off 1 (top - 15000) (clock (top - 15000))) fun s =>
      s.phase = .signal ∧ s.seqEnd ≤ s.inputs.clk ∧ s.seqState = .off ∧ s.WF ∧ s.tLast ≤ s.inputs.clk ∧
      s.inputs.clk.toNat + s.cfg.tOn < 2 ^ 64) ∧
    (Meets (signalling .off 0 215001 (clock 215001)) fun s =>
      s.phase = .signal ∧ s.seqEnd ≤ s.inputs.clk ∧ s.seqState = .off ∧ ¬s.WF) ∧
    (Meets (signalling .off 1 200000 (clock 200000)) fun s =>
      s.phase = .signal ∧ s.seqEnd ≤ s.inputs.clk ∧ s.seqState = .off ∧ s.WF ∧ s.inputs.clk < s.tLast) ∧
    (Meets (signalling .off 1 215001 (clock (top - 14999))) fun s =>
      s.phase = .signal ∧ s.seqEnd ≤ s.inputs.clk ∧ s.seqState = .off ∧ s.WF ∧ s.tLast ≤ s.inputs.clk ∧
      2 ^ 64 ≤ s.inputs.clk.toNat + s.cfg.tOn) :=
  ⟨by decide, by decide, by decide, by decide⟩

/-- Both ends of the codes that are raised. -/
theorem witness_FaultRaisesItsCode :
    (looping .sample (clock 0)).phase ≠ .fault ∧
    (∀ v ∈ [1#8, 6#8], 1 ≤ v.toNat ∧ v.toNat ≤ 6) := by decide

/-- The codes next to them. -/
theorem witness_FaultCodesNeverRaisedAreRefused :
    (looping .sample (clock 0)).phase ≠ .fault ∧ (0#8).toNat = 0 ∧ 7 ≤ (7#8).toNat ∧ 7 ≤ (255#8).toNat := by decide

theorem witness_FaultsArePrecise :
    let s := { looping .sample (clock 499) with tLast := 500 }
    exec (.sample 0) s = .next (stepTo s) ∧ (stepTo s).phase = .fault ∧ (stepTo s).faultCode ≠ 5 :=
  ⟨rfl, by decide, by decide⟩

/-- Each of the six operations that sample. -/
theorem witness_BackwardClockFaults :
    (Meets { looping .start (clock 5) with tLast := 6 } fun s =>
      s.nextOp = some .start ∧ s.WF ∧ s.inputs.clk < s.tLast) ∧
    (Meets { looping .sample (clock 5) with tLast := 6 } fun s =>
      s.nextOp = some .sample ∧ s.WF ∧ s.inputs.clk < s.tLast) ∧
    (Meets (starting 5 6) fun s =>
      s.nextOp = some .sigStart ∧ s.WF ∧ s.inputs.clk < s.tLast) ∧
    (Meets (signalling .on 2 215001 (clock 200000)) fun s =>
      s.nextOp = some .sigWait ∧ s.WF ∧ s.inputs.clk < s.tLast) ∧
    (Meets (signalling .on 2 200000 (clock 200000)) fun s =>
      s.nextOp = some .sigOnEnd ∧ s.WF ∧ s.inputs.clk < s.tLast) ∧
    (Meets (signalling .off 1 200000 (clock 200000)) fun s =>
      s.nextOp = some .sigOffEnd ∧ s.WF ∧ s.inputs.clk < s.tLast) :=
  ⟨by decide, by decide, by decide, by decide, by decide, by decide⟩

theorem witness_FaultStateIsQuiescent :
    ((looping .fault (clock 0)).phase = .fault ∧ (looping .fault (clock 0)).inputs.rst = false) ∧
    (looping .fault request).phase = .fault ∧ (looping .fault request).inputs.rst = true := by decide

theorem witness_OnlyResetLeavesFault :
    let s := looping .fault request
    s.inputs.rst = true ∧ step s = .next (stepTo s) ∧ s.phase = .fault ∧ (stepTo s).phase ≠ .fault :=
  ⟨by decide, rfl, by decide, by decide⟩

theorem witness_UnselectedOperationsDoNotRun :
    ((Instr.yield 0).op ≠ .reset ∧ (Instr.yield 0).op ≠ .fault ∧ dutyNow.nextOp ≠ some (Instr.yield 0).op) ∧
    (Instr.fault 0 1).op = .fault ∧ (looping .fault (clock 0)).phase = .fault := by decide

/-- The fired DUTY_CHECK, for the four statements about every operation that answers a next state. -/
theorem witness_exec_next :
    exec (.dutyCheck true 0 0 51) dutyNow = .next (stepTo dutyNow) ∧ (stepTo dutyNow).phase ≠ .fault ∧
    (Instr.dutyCheck true 0 0 51).op ≠ .reset ∧ dutyNow.fillIdx.toNat = dutyNow.cfg.n ∧
    dutyNow.phase.inLoop = true :=
  ⟨rfl, by decide, by decide, by decide, by decide⟩

theorem witness_RegistersChangeOnlyByTheirWriters :
    exec (.dutyCheck true 0 0 51) dutyNow = .next (stepTo dutyNow) ∧ (stepTo dutyNow).phase ≠ .fault ∧
    (Instr.dutyCheck true 0 0 51).op ≠ .reset :=
  ⟨witness_exec_next.1, witness_exec_next.2.1, witness_exec_next.2.2.1⟩

theorem witness_ConfigurationNeverChanges : exec (.dutyCheck true 0 0 51) dutyNow = .next (stepTo dutyNow) :=
  witness_exec_next.1

theorem witness_FilledTableIsImmutable :
    (exec (.dutyCheck true 0 0 51) dutyNow = .next (stepTo dutyNow) ∧ (Instr.dutyCheck true 0 0 51).op ≠ .reset ∧
      dutyNow.fillIdx.toNat = dutyNow.cfg.n) ∧
    (exec .reset dutyNow = .next (dutyNow.tick.restart.trace .reset) ∧ Instr.reset.op = .reset) :=
  ⟨⟨witness_exec_next.1, witness_exec_next.2.2.1, witness_exec_next.2.2.2.1⟩, rfl, rfl⟩

theorem witness_WellFormedIffTheEightItems : dutyNow.table.wf = true := by decide

theorem witness_InvariantHoldsAtReset : ResetState small (fresh small (clock 0)) := rfl

theorem witness_StepKeepsTheInvariant : Inv dutyNow ∧ step dutyNow = .next (stepTo dutyNow) := ⟨inv_dutyNow, rfl⟩

theorem witness_IllegalStateIsUnreachable :
    Inv dutyNow ∧ dutyNow.phase ≠ .fault ∧ step dutyNow = .next (stepTo dutyNow) := ⟨inv_dutyNow, by decide, rfl⟩

theorem witness_TableEntriesStayInBounds :
    Inv dutyNow ∧ step dutyNow = .next (stepTo dutyNow) ∧ (stepTo dutyNow).phase.inLoop = true :=
  ⟨inv_dutyNow, rfl, by decide⟩

theorem witness_ScaleIsMonotonic : (51#8) ≤ 204#8 ∧ 2 ≤ 2 := by decide

theorem witness_ModeCycleHasPeriodM : 1 ≤ 8 ∧ 8 ≤ 8 ∧ (7#3).toNat < 8 := by decide

theorem witness_LoopNeverExits :
    dutyNow.phase.inLoop = true ∧ exec (.dutyCheck true 0 0 51) dutyNow = .next (stepTo dutyNow) ∧
    (Instr.dutyCheck true 0 0 51).op ≠ .reset :=
  ⟨by decide, rfl, by decide⟩

/-- The loop goes on: one more step of a run whose steps are known. -/
theorem goesOn {s t : State} {d m y : Nat} (run : LoopRun s d m y t) (inLoop : t.phase.inLoop = true)
    (noReset : t.inputs.rst = false) (answers : step t = .next (stepTo t)) (noFault : NoFault (stepTo t)) :
    LoopRun s (d + t.dutyFires.toNat) (m + t.modeFires.toNat) (y + t.iterEnds.toNat) (stepTo t) :=
  .step run inLoop noReset answers noFault

theorem witness_CountersFollowTheFirings :
    Inv dutyNow ∧ dutyNow.phase.inLoop = true ∧ LoopRun dutyNow 1 0 0 (stepTo dutyNow) :=
  ⟨inv_dutyNow, by decide, goesOn .here (by decide) (by decide) rfl (by decide)⟩

/-- From a fired DUTY_CHECK to the next one: MODE_CHECK, ITER_END and SAMPLE between. -/
theorem witness_FiringsAreAnIntervalApart_duty :
    let u := stepTo dutyNow
    let v := stepTo (stepTo (stepTo u))
    Inv dutyNow ∧ dutyNow.phase.inLoop = true ∧ dutyNow.inputs.rst = false ∧ step dutyNow = .next u ∧ NoFault u ∧
    dutyNow.dutyFires = true ∧ LoopRun u 0 0 1 v ∧ v.dutyFires = true :=
  ⟨inv_dutyNow, by decide, by decide, rfl, by decide, by decide,
    goesOn (goesOn (goesOn .here (by decide) (by decide) rfl (by decide)) (by decide) (by decide) rfl (by decide))
      (by decide) (by decide) rfl (by decide),
    by decide⟩

/-- From a fired MODE_CHECK to the next one, through its signal of one pulse. -/
theorem witness_FiringsAreAnIntervalApart_mode :
    let u := stepTo modeNow
    let v := stepTo (stepTo (stepTo (stepTo (stepTo u))))
    Inv modeNow ∧ modeNow.phase.inLoop = true ∧ modeNow.inputs.rst = false ∧ step modeNow = .next u ∧ NoFault u ∧
    modeNow.modeFires = true ∧ LoopRun u 0 0 1 v ∧ v.modeFires = true :=
  ⟨inv_modeNow, by decide, by decide, rfl, by decide, by decide,
    goesOn (goesOn (goesOn (goesOn (goesOn .here
      (by decide) (by decide) rfl (by decide)) (by decide) (by decide) rfl (by decide))
      (by decide) (by decide) rfl (by decide)) (by decide) (by decide) rfl (by decide))
      (by decide) (by decide) rfl (by decide),
    by decide⟩

theorem witness_DutyUpdatesPerModeWindow :
    let u := stepTo modeNow
    let v := stepTo (stepTo (stepTo (stepTo (stepTo u))))
    Inv modeNow ∧ modeNow.modeFires = true ∧ modeNow.inputs.rst = false ∧ step modeNow = .next u ∧ NoFault u ∧
    LoopRun u 0 0 1 v ∧ v.modeFires = true :=
  have ⟨h1, _, h3, h4, h5, h6, h7, h8⟩ := witness_FiringsAreAnIntervalApart_mode
  ⟨h1, h6, h3, h4, h5, h7, h8⟩

theorem witness_DutyFiresBeforeMode :
    Meets { duty (top - 200000) 0 true with nextMode := top - 200000, env := [clock 0, clock 0] } fun s =>
    s.phase = .duty ∧ s.WF ∧ s.nextDuty ≤ s.tIter ∧ s.nextMode ≤ s.tIter ∧
    s.tIter.toNat + interval s.cfg s.mode < 2 ^ 64 ∧ s.tIter.toNat + s.cfg.msi < 2 ^ 64 ∧
    s.inputs.rst = false ∧ s.inputs.wrOk = true ∧ s.tick.inputs.rst = false := by decide

/-- An iteration in which the duty deadline is reached to the microsecond and the mode deadline is one above. -/
theorem witness_OneTimeBasePerIteration :
    Meets { looping1 .sample [clock 7, clock 0] with nextDuty := 7, nextMode := 8 } fun s =>
    Inv s ∧ s.phase = .sample ∧ s.inputs.rst = false ∧ step s = .next (stepTo s) ∧ NoFault (stepTo s) ∧
    (stepTo s).inputs.rst = false ∧ step (stepTo s) = .next (stepTo (stepTo s)) ∧ NoFault (stepTo (stepTo s)) :=
  ⟨inv_single (v := 51) rfl rfl (by decide) rfl (by decide) (by decide) (by decide) (by decide) (by decide),
    by decide, by decide, rfl, by decide, by decide, rfl, by decide⟩

theorem witness_SignalBlocksTheLoop :
    signalNow.phase.inSignal = true ∧ signalNow.inputs.rst = false ∧ signalNow.selected = some (.sigStart 0 1) ∧
    step signalNow = .next (stepTo signalNow) :=
  ⟨by decide, by decide, by decide, rfl⟩

/-- A step inside a signal, and the step that ends it. -/
theorem witness_SignalEmitsTwoEdgesPerPulse :
    (Inv signalNow ∧ signalNow.phase.inSignal = true ∧ signalNow.inputs.rst = false ∧
      step signalNow = .next (stepTo signalNow) ∧ NoFault (stepTo signalNow)) ∧
    (Meets { looping1 .signal [clock 5] with seqState := .on, seqRem := 1, seqEnd := 5, indLevel := some .on } fun s =>
      Inv s ∧ s.phase.inSignal = true ∧ s.inputs.rst = false ∧ step s = .next (stepTo s) ∧ NoFault (stepTo s) ∧
      (stepTo s).phase.inSignal = false) :=
  ⟨⟨inv_signalNow, by decide, by decide, rfl, by decide⟩,
    inv_single (v := 51) rfl rfl (by decide) rfl (by decide) (by decide) (by decide) (by decide) (by decide),
    by decide, by decide, rfl, by decide, by decide⟩

/-- Both steps of a signal of one pulse: its on-edge, and its off-edge at the end of the pulse. -/
theorem witness_SignalEndsAsTheClockAdvances :
    (Inv signalNow ∧ signalNow.phase.inSignal = true ∧ signalNow.inputs.rst = false ∧ signalNow.phase ≠ .signal ∧
      step signalNow = .next (stepTo signalNow) ∧ NoFault (stepTo signalNow)) ∧
    (Meets { looping1 .signal [clock 5] with seqState := .on, seqRem := 1, seqEnd := 5, indLevel := some .on } fun s =>
      Inv s ∧ s.phase.inSignal = true ∧ s.inputs.rst = false ∧ s.seqEnd ≤ s.inputs.clk ∧ step s = .next (stepTo s) ∧
      NoFault (stepTo s)) :=
  ⟨⟨inv_signalNow, by decide, by decide, by decide, rfl, by decide⟩,
    inv_single (v := 51) rfl rfl (by decide) rfl (by decide) (by decide) (by decide) (by decide) (by decide),
    by decide, by decide, by decide, rfl, by decide⟩

/-- A signal of one pulse, from its start to its end. -/
theorem witness_SignalLastsAtLeastItsPulses :
    let t := stepTo (stepTo signalNow)
    Inv signalNow ∧ signalNow.phase = .sigStart ∧ LoopRun signalNow 0 0 0 t ∧ t.phase = .iterEnd :=
  ⟨inv_signalNow, by decide,
    goesOn (goesOn .here (by decide) (by decide) rfl (by decide)) (by decide) (by decide) rfl (by decide),
    by decide⟩

/-- A reset request in the middle of a signal, the smallest table, and the latest start that does not overflow. -/
theorem witness_BootFillsTheTableAndStarts :
    let request := { clock 0 with rst := true }
    let start := clock (top - 200000)
    let s := looping1 .signal (request :: clock 0 :: ([clock 0 51] ++ start :: []))
    Valid s.cfg ∧ s.env = request :: clock 0 :: ([clock 0 51] ++ start :: []) ∧ request.rst = true ∧
    (∀ x ∈ clock 0 :: start :: [clock 0 51], x.rst = false) ∧ (clock 0).cfgOk = true ∧
    [clock 0 51].length = s.cfg.n ∧
    (∀ x ∈ [clock 0 51], s.cfg.min ≤ x.entropy.toNat ∧ x.entropy.toNat ≤ s.cfg.max) ∧
    start.clk.toNat + s.cfg.dOff < 2 ^ 64 ∧ start.clk.toNat + s.cfg.mOff < 2 ^ 64 :=
  ⟨by decide, rfl, rfl, by decide, rfl, rfl, by decide, by decide, by decide⟩

/-- For each kind of operation, two inputs that differ in everything the operation does not read. -/
theorem witness_InputsAreReadOnlyWhereNamed :
    (∀ i ∈ [Instr.start, .sample 0, .sigStart 0 1, .sigWait true 0 1, .sigOnEnd 0 0, .sigOffEnd 0 1],
      samplesClock i.op = true ∧ i.op ≠ .fill ∧ i.op ≠ .init ∧ i.op ≠ .dutyCheck) ∧
    (clock 7 60 false true).clk = (clock 7 70 true false).clk ∧
    (clock 7 60 false true).entropy = (clock 8 60 true false).entropy ∧
    (clock 7 60 false true).cfgOk = (clock 8 70 false false).cfgOk ∧
    (clock 7 60 false true).wrOk = (clock 8 70 true true).wrOk := by decide

end Sys2Proof.Tests
end

section
/-! PROOF. Facts about the parts of the state that more than one proof needs: the DutyTable, the ranges of the functions
used inside operations, the phases of the signal, and the fault codes. -/

namespace Sys2Proof.Machine

/-! ## The DutyTable -/

/-- A read sees the most recent write to its index, and a write leaves every other index alone (R61, R62, R70). -/
theorem Memory.read_write (m : Memory) (i j : Nat) (v : Byte) :
    (m.write i v).read j = if j = i then some v else m.read j := by
  induction m with
  | nil => simp only [Memory.write, Memory.read, eq_comm]
  | cons c m ih =>
    obtain ⟨a, b⟩ := c
    unfold Memory.write
    split
    · simp only [Memory.read, eq_comm]
    · split
      · subst i
        simp only [Memory.read]
        grind
      · simp only [Memory.read, ih]
        grind

/-! ## The functions stay in their ranges -/

theorem advance_toNat {modes : Nat} (m : ModeNo) (h1 : 1 ≤ modes) (h8 : modes ≤ 8) :
    (advance modes m).toNat = (m.toNat + 1) % modes := by
  have := Nat.mod_lt (m.toNat + 1) (show modes > 0 by omega)
  rw [advance, BitVec.toNat_ofNat]
  exact Nat.mod_eq_of_lt (by omega)

theorem nextCursor_toNat {n : Nat} (i : Index) (h1 : 1 ≤ n) (hn : n ≤ 65536) :
    (nextCursor n i).toNat = (i.toNat + 1) % n := by
  have := Nat.mod_lt (i.toNat + 1) (show n > 0 by omega)
  rw [nextCursor, BitVec.toNat_ofNat]
  exact Nat.mod_eq_of_lt (by omega)

theorem scale_le (nativeMax : Nat) (v : Byte) : scale nativeMax v ≤ nativeMax := by
  have hv : v.toNat * nativeMax ≤ 255 * nativeMax := Nat.mul_le_mul_right _ (by omega)
  rw [scale]
  omega

theorem signalCount_toNat (m : ModeNo) : (BitVec.ofNat 4 (signalCount m)).toNat = signalCount m := by
  rw [BitVec.toNat_ofNat, signalCount]
  omega

theorem lt_deadline {t : Time} {d : Nat} (hfits : FitsTime t d) (hd : 1 ≤ d) : t < deadline t d := by
  rw [BitVec.lt_def, deadline_toNat hfits]
  omega

/-! ## Phases and fault codes -/

@[simp] theorem Phase.inSignal_eq_true {p : Phase} : p.inSignal = true ↔ p = .sigStart ∨ p = .signal := by
  cases p <;> simp [Phase.inSignal]

@[simp] theorem Phase.inSignal_eq_false {p : Phase} : p.inSignal = false ↔ p ≠ .sigStart ∧ p ≠ .signal := by
  rw [← Bool.not_eq_true, Phase.inSignal_eq_true, not_or]

theorem FaultCode.code_ne_zero (c : FaultCode) : c.code ≠ 0 := by
  cases c <;> decide

theorem FaultCode.code_eq_six_iff {c : FaultCode} : c.code = 6 ↔ c = .illegalState := by
  cases c <;> decide

end Sys2Proof.Machine
end

section
/-! PROOF. What a step can do, said once: the phase that selects each operation, the state each operation leaves, and the
relation `Performs` that lists every next state `exec` can answer with the conditions under which it answers it. Later
proofs take a step apart by the cases of `Performs` and unfold no meaning. -/

namespace Sys2Proof.Machine

/-! ## Which phase selects an operation (R160) -/

/-- The one phase that selects the operation by itself. The three operations of a running signal share phase SIGNAL and
are told apart by the clock and `seq_state`; RESET and FAULT belong to no phase. -/
def home : Op → Option Phase
  | .init => some .init
  | .fill => some .fill
  | .start => some .start
  | .sample => some .sample
  | .dutyCheck => some .duty
  | .modeCheck => some .mode
  | .iterEnd => some .iterEnd
  | .yield => some .yield
  | .sigStart => some .sigStart
  | .reset | .sigWait | .sigOnEnd | .sigOffEnd | .fault => none

theorem State.nextOp_eq_iff_home {s : State} {o : Op} {p : Phase} (h : home o = some p) :
    s.nextOp = some o ↔ s.phase = p := by
  unfold State.nextOp
  cases o <;> cases h <;> grind

theorem State.nextOp_eq_sigWait {s : State} :
    s.nextOp = some .sigWait ↔ s.phase = .signal ∧ s.PulseRunning s.inputs.clk := by
  unfold State.nextOp
  grind

theorem State.nextOp_eq_sigOnEnd {s : State} :
    s.nextOp = some .sigOnEnd ↔ s.phase = .signal ∧ ¬s.PulseRunning s.inputs.clk ∧ s.seqState = .on := by
  unfold State.nextOp
  grind

theorem State.nextOp_eq_sigOffEnd {s : State} :
    s.nextOp = some .sigOffEnd ↔ s.phase = .signal ∧ ¬s.PulseRunning s.inputs.clk ∧ s.seqState ≠ .on := by
  unfold State.nextOp
  grind

/-- RESET comes by request only (R221). -/
theorem State.nextOp_ne_reset (s : State) : s.nextOp ≠ some .reset := by
  unfold State.nextOp
  grind

/-- FAULT is selected by the reserved phases and by nothing else. -/
theorem State.nextOp_eq_fault {s : State} : s.nextOp = some .fault ↔ s.phase.legal = false := by
  unfold State.nextOp Phase.legal
  grind

theorem State.nextOp_eq_none {s : State} : s.nextOp = none ↔ s.phase = .fault := by
  unfold State.nextOp
  grind

/-- The fields reported are those of the operation performed. -/
@[simp] theorem State.fieldsOf_op (s : State) (o : Op) : (s.fieldsOf o).op = o := by
  cases o
  case dutyCheck => dsimp only [State.fieldsOf]; split <;> rfl
  case modeCheck => dsimp only [State.fieldsOf]; split <;> rfl
  all_goals rfl

/-! ## The state each operation leaves

`State.dutyFired` is the model's own; these are the others, each tied to its meaning by `exec_performs`. -/

/-- INIT has sent PWM_CONFIGURE (R102). -/
def State.configured (s : State) : State :=
  s.tick.emit (.pwmConfigure s.cfg.carrierFreq s.cfg.resolution)

/-- INIT succeeded (R102). -/
def State.initialized (s : State) : State :=
  { s.configured.drive .off with fillIdx := 0, phase := .fill }.trace (.init s.mode)

/-- FILL wrote the drawn value (R103). -/
def State.filled (s : State) : State :=
  { s.tick with
    table := s.table.write s.fillIdx.toNat s.inputs.entropy
    fillIdx := BitVec.ofNat 17 (s.fillIdx.toNat + 1)
    phase := if s.fillIdx.toNat + 1 = s.cfg.n then .start else s.phase
  }.trace (.fill s.mode (s.fillIdx.setWidth 16) s.inputs.entropy)

/-- START set both deadlines (R106). -/
def State.started (s : State) : State :=
  { s.tick with
    tLast := s.inputs.clk
    tIter := s.inputs.clk
    nextDuty := deadline s.inputs.clk s.cfg.dOff
    nextMode := deadline s.inputs.clk s.cfg.mOff
    mode := 0
    cursor := 0
    iterCnt := 0
    phase := .sample
  }.trace .start

/-- SAMPLE took the iteration's sample (R142). -/
def State.sampled (s : State) : State :=
  { s.tick with tLast := s.inputs.clk, tIter := s.inputs.clk, phase := .duty }.trace (.sample s.mode)

/-- DUTY_CHECK found its deadline not due (R143). -/
def State.dutyPassed (s : State) : State :=
  { s.tick with phase := .mode }.trace (.dutyCheck false s.mode 0 0)

/-- MODE_CHECK fired (R144). -/
def State.modeFired (s : State) : State :=
  { { s.tick with
      nextMode := deadline s.tIter s.cfg.msi
      mode := advance s.cfg.m s.mode
      seqRem := BitVec.ofNat 4 (signalCount (advance s.cfg.m s.mode))
    }.emit (.modeChanged (advance s.cfg.m s.mode)) with phase := .sigStart
  }.trace (.modeCheck true (advance s.cfg.m s.mode) (BitVec.ofNat 8 (signalCount (advance s.cfg.m s.mode))))

/-- MODE_CHECK found its deadline not due (R144). -/
def State.modePassed (s : State) : State :=
  { s.tick with phase := .iterEnd }.trace (.modeCheck false s.mode 0)

/-- ITER_END hands over to YIELD (R145). -/
def State.iterYields (s : State) : State :=
  { s.tick with iterCnt := 0, phase := .yield }.trace (.iterEnd true s.mode)

/-- ITER_END goes on with the next iteration (R145). -/
def State.iterRepeats (s : State) : State :=
  { s.tick with iterCnt := BitVec.ofNat 32 (s.iterCnt.toNat + 1), phase := .sample }.trace (.iterEnd false s.mode)

/-- YIELD returned (R146). -/
def State.yielded (s : State) : State :=
  { s.tick.emit .yieldReq with phase := .sample }.trace (.yield s.mode)

/-- SIG_START turned the first pulse on (R171). -/
def State.signalStarted (s : State) : State :=
  { { s.tick with tLast := s.inputs.clk }.drive .on with
    seqState := .on
    seqEnd := deadline s.inputs.clk s.cfg.tOn
    phase := .signal
  }.trace (.sigStart s.mode (s.seqRem.setWidth 8))

/-- SIG_WAIT polled inside a pulse phase (R172). -/
def State.signalPolled (s : State) : State :=
  { s.tick with tLast := s.inputs.clk }.trace (.sigWait (s.seqState == SeqState.on) s.mode (s.seqRem.setWidth 8))

/-- SIG_ON_END turned the last pulse off (R173). -/
def State.signalEnded (s : State) : State :=
  { { s.tick with tLast := s.inputs.clk }.drive .off with
    seqRem := s.seqRem - 1
    seqState := .idle
    phase := .iterEnd
  }.trace (.sigOnEnd s.mode ((s.seqRem - 1).setWidth 8))

/-- SIG_ON_END turned a pulse off that another one follows (R173). -/
def State.pulseEnded (s : State) : State :=
  { { s.tick with tLast := s.inputs.clk }.drive .off with
    seqRem := s.seqRem - 1
    seqState := .off
    seqEnd := deadline s.inputs.clk s.cfg.tOff
  }.trace (.sigOnEnd s.mode ((s.seqRem - 1).setWidth 8))

/-- SIG_OFF_END turned the next pulse on (R174). -/
def State.pulseStarted (s : State) : State :=
  { { s.tick with tLast := s.inputs.clk }.drive .on with
    seqState := .on
    seqEnd := deadline s.inputs.clk s.cfg.tOn
  }.trace (.sigOffEnd s.mode (s.seqRem.setWidth 8))

/-! ## Why an operation faults (R190) -/

/-- A deadline sum of the operation does not fit (R147, R197). -/
def State.Overflows (s : State) : Op → Prop
  | .start => ¬(FitsTime s.inputs.clk s.cfg.dOff ∧ FitsTime s.inputs.clk s.cfg.mOff)
  | .dutyCheck => s.DutyDue ∧ ¬FitsTime s.tIter (interval s.cfg s.mode)
  | .modeCheck => s.ModeDue ∧ ¬FitsTime s.tIter s.cfg.msi
  | .sigStart | .sigOffEnd => ¬FitsTime s.inputs.clk s.cfg.tOn
  | .sigOnEnd => s.seqRem - 1 ≠ 0 ∧ ¬FitsTime s.inputs.clk s.cfg.tOff
  | .reset | .init | .fill | .sample | .iterEnd | .yield | .sigWait | .fault => False

/-- The operation raises the cause before any effect and any event. The two causes the PWM peripheral answers come after
events and are cases of `Performs`. -/
inductive Raises (s : State) : Op → FaultCode → Prop
  | configInvalid (phase : s.phase = .init) (invalid : ¬Valid s.cfg) : Raises s .init .configInvalid
  | illegalState {o : Op} (checks : beginsWithCheckWF o = true) (selected : s.nextOp = some o) (illFormed : ¬s.WF) :
      Raises s o .illegalState
  | clockNonmonotonic {o : Op} (samples : samplesClock o = true) (selected : s.nextOp = some o) (wf : s.WF)
      (back : ¬s.ClockOk) : Raises s o .clockNonmonotonic
  | timeOverflow {o : Op} (selected : s.nextOp = some o) (wf : s.WF)
      (clock : samplesClock o = true → s.ClockOk) (overflows : s.Overflows o) : Raises s o .timeOverflow
  | commanded {val : Byte} {c : FaultCode} (phase : s.phase ≠ .fault) (names : FaultCode.ofVal val = some c) :
      Raises s .fault c

/-! ## What an operation can do -/

/-- The operation `o`, performed in the state `s`, leaves the state `t`. -/
inductive Performs (s : State) : Op → State → Prop
  | raised {o : Op} {c : FaultCode} (why : Raises s o c) : Performs s o (s.tick.raise c)
  | reset : Performs s .reset (s.tick.restart.trace .reset)
  | initialized (phase : s.phase = .init) (valid : Valid s.cfg) (accepted : s.inputs.cfgOk = true) :
      Performs s .init s.initialized
  | initRejected (phase : s.phase = .init) (valid : Valid s.cfg) (rejected : s.inputs.cfgOk = false) :
      Performs s .init (s.configured.raise .periphInitRejected)
  | filled (phase : s.phase = .fill) (wf : s.WF)
      (inBounds : s.cfg.min ≤ s.inputs.entropy.toNat ∧ s.inputs.entropy.toNat ≤ s.cfg.max) : Performs s .fill s.filled
  | started (phase : s.phase = .start) (wf : s.WF) (clock : s.ClockOk)
      (dutyFits : FitsTime s.inputs.clk s.cfg.dOff) (modeFits : FitsTime s.inputs.clk s.cfg.mOff) :
      Performs s .start s.started
  | sampled (phase : s.phase = .sample) (wf : s.WF) (clock : s.ClockOk) : Performs s .sample s.sampled
  | dutyFired {v : Byte} (phase : s.phase = .duty) (wf : s.WF) (due : s.DutyDue)
      (fits : FitsTime s.tIter (interval s.cfg s.mode)) (read : s.memRead s.cursor = some v)
      (written : s.inputs.wrOk = true) : Performs s .dutyCheck (s.dutyFired v)
  | dutyWriteFailed {v : Byte} (phase : s.phase = .duty) (wf : s.WF) (due : s.DutyDue)
      (fits : FitsTime s.tIter (interval s.cfg s.mode)) (read : s.memRead s.cursor = some v)
      (failed : s.inputs.wrOk = false) : Performs s .dutyCheck ((s.dutyFired v).raise .pwmWriteFailed)
  | dutyPassed (phase : s.phase = .duty) (wf : s.WF) (notDue : ¬s.DutyDue) : Performs s .dutyCheck s.dutyPassed
  | modeFired (phase : s.phase = .mode) (wf : s.WF) (due : s.ModeDue) (fits : FitsTime s.tIter s.cfg.msi) :
      Performs s .modeCheck s.modeFired
  | modePassed (phase : s.phase = .mode) (wf : s.WF) (notDue : ¬s.ModeDue) : Performs s .modeCheck s.modePassed
  | iterYields (phase : s.phase = .iterEnd) (wf : s.WF) (follows : s.YieldFollows) : Performs s .iterEnd s.iterYields
  | iterRepeats (phase : s.phase = .iterEnd) (wf : s.WF) (goesOn : ¬s.YieldFollows) :
      Performs s .iterEnd s.iterRepeats
  | yielded (phase : s.phase = .yield) (wf : s.WF) : Performs s .yield s.yielded
  | signalStarted (phase : s.phase = .sigStart) (wf : s.WF) (clock : s.ClockOk)
      (fits : FitsTime s.inputs.clk s.cfg.tOn) : Performs s .sigStart s.signalStarted
  | signalPolled (phase : s.phase = .signal) (wf : s.WF) (clock : s.ClockOk)
      (running : s.PulseRunning s.inputs.clk) : Performs s .sigWait s.signalPolled
  | signalEnded (phase : s.phase = .signal) (wf : s.WF) (clock : s.ClockOk)
      (reached : ¬s.PulseRunning s.inputs.clk) (on : s.seqState = .on) (last : s.seqRem - 1 = 0) :
      Performs s .sigOnEnd s.signalEnded
  | pulseEnded (phase : s.phase = .signal) (wf : s.WF) (clock : s.ClockOk)
      (reached : ¬s.PulseRunning s.inputs.clk) (on : s.seqState = .on) (more : s.seqRem - 1 ≠ 0)
      (fits : FitsTime s.inputs.clk s.cfg.tOff) : Performs s .sigOnEnd s.pulseEnded
  | pulseStarted (phase : s.phase = .signal) (wf : s.WF) (clock : s.ClockOk)
      (reached : ¬s.PulseRunning s.inputs.clk) (off : s.seqState ≠ .on)
      (fits : FitsTime s.inputs.clk s.cfg.tOn) : Performs s .sigOffEnd s.pulseStarted

section
variable {s t : State} {o : Op}

/-- An operation that checks `WF` takes that check's fault or runs its body in a well-formed state (R200). -/
theorem checked_next {body : Result} (hc : beginsWithCheckWF o = true)
    (h : selectedOnly o s (checkWF s body) = .next t) :
    Performs s o t ∨ (s.nextOp = some o ∧ s.WF ∧ body = .next t) := by
  obtain ⟨hsel, h⟩ := selectedOnly_next h
  obtain ⟨hwf, h⟩ | ⟨hwf, rfl⟩ := checkWF_next h
  · exact .inr ⟨hsel, hwf, h⟩
  · exact .inl (.raised (.illegalState hc hsel hwf))

theorem beginsWithCheckWF_of_samplesClock (h : samplesClock o = true) : beginsWithCheckWF o = true := by
  cases o <;> simp_all [samplesClock, beginsWithCheckWF]

/-- An operation that samples takes the fault of one of its first two checks or runs its body on the sample (R200). -/
theorem sampled_next {body : Time → Result} (hs : samplesClock o = true)
    (h : selectedOnly o s (checkWF s (withSample s body)) = .next t) :
    Performs s o t ∨ (s.nextOp = some o ∧ s.WF ∧ s.ClockOk ∧ body s.inputs.clk = .next t) := by
  obtain hp | ⟨hsel, hwf, h⟩ := checked_next (beginsWithCheckWF_of_samplesClock hs) h
  · exact .inl hp
  · obtain ⟨hck, h⟩ | ⟨hck, rfl⟩ := withSample_next h
    · exact .inr ⟨hsel, hwf, hck, h⟩
    · exact .inl (.raised (.clockNonmonotonic hs hsel hwf hck))

/-! ## Each meaning answers a case of `Performs` -/

theorem execInit_performs (h : execInit s = .next t) : Performs s .init t := by
  obtain ⟨hsel, h⟩ := selectedOnly_next h
  have hp : s.phase = .init := (State.nextOp_eq_iff_home rfl).mp hsel
  split at h
  · dsimp only at h
    split at h <;> cases h
    · exact .initialized hp ‹_› ‹_›
    · exact .initRejected hp ‹_› (Bool.eq_false_iff.mpr ‹_›)
  · cases h
    exact .raised (.configInvalid hp ‹_›)

theorem execFill_performs (h : execFill s = .next t) : Performs s .fill t := by
  obtain hp | ⟨hsel, hwf, h⟩ := checked_next rfl h
  · exact hp
  · unfold State.memWrite at h
    split at h
    · cases h
    · next hw =>
      cases h
      split at hw <;> cases hw
      exact .filled ((State.nextOp_eq_iff_home rfl).mp hsel) hwf (And.right ‹_›)

theorem execStart_performs (h : execStart s = .next t) : Performs s .start t := by
  obtain hp | ⟨hsel, hwf, hck, h⟩ := sampled_next rfl h
  · exact hp
  · obtain ⟨⟨hd, hm⟩, h⟩ | ⟨hover, rfl⟩ := unlessOverflow_next h
    · cases h
      exact .started ((State.nextOp_eq_iff_home rfl).mp hsel) hwf hck hd hm
    · exact .raised (.timeOverflow hsel hwf (fun _ => hck) hover)

theorem execSample_performs (h : execSample s = .next t) : Performs s .sample t := by
  obtain hp | ⟨hsel, hwf, hck, h⟩ := sampled_next rfl h
  · exact hp
  · cases h
    exact .sampled ((State.nextOp_eq_iff_home rfl).mp hsel) hwf hck

theorem execDutyCheck_performs (h : execDutyCheck s = .next t) : Performs s .dutyCheck t := by
  obtain hp | ⟨hsel, hwf, h⟩ := checked_next rfl h
  · exact hp
  · have hp : s.phase = .duty := (State.nextOp_eq_iff_home rfl).mp hsel
    split at h
    · next hdue =>
      obtain ⟨hfits, h⟩ | ⟨hover, rfl⟩ := unlessOverflow_next h
      · obtain ⟨v, hv, -⟩ := State.memRead_cursor hwf (by rw [hp]; rfl)
        rw [hv] at h
        dsimp only at h
        split at h <;> cases h
        · exact .dutyFired hp hwf hdue hfits hv ‹_›
        · exact .dutyWriteFailed hp hwf hdue hfits hv (Bool.eq_false_iff.mpr ‹_›)
      · exact .raised (.timeOverflow hsel hwf nofun ⟨hdue, hover⟩)
    · cases h
      exact .dutyPassed hp hwf ‹_›

theorem execModeCheck_performs (h : execModeCheck s = .next t) : Performs s .modeCheck t := by
  obtain hp | ⟨hsel, hwf, h⟩ := checked_next rfl h
  · exact hp
  · have hp : s.phase = .mode := (State.nextOp_eq_iff_home rfl).mp hsel
    split at h
    · next hdue =>
      obtain ⟨hfits, h⟩ | ⟨hover, rfl⟩ := unlessOverflow_next h
      · cases h
        exact .modeFired hp hwf hdue hfits
      · exact .raised (.timeOverflow hsel hwf nofun ⟨hdue, hover⟩)
    · cases h
      exact .modePassed hp hwf ‹_›

theorem execIterEnd_performs (h : execIterEnd s = .next t) : Performs s .iterEnd t := by
  obtain hp | ⟨hsel, hwf, h⟩ := checked_next rfl h
  · exact hp
  · have hp : s.phase = .iterEnd := (State.nextOp_eq_iff_home rfl).mp hsel
    split at h <;> cases h
    · exact .iterYields hp hwf ‹_›
    · exact .iterRepeats hp hwf ‹_›

theorem execYield_performs (h : execYield s = .next t) : Performs s .yield t := by
  obtain hp | ⟨hsel, hwf, h⟩ := checked_next rfl h
  · exact hp
  · cases h
    exact .yielded ((State.nextOp_eq_iff_home rfl).mp hsel) hwf

theorem execSigStart_performs (h : execSigStart s = .next t) : Performs s .sigStart t := by
  obtain hp | ⟨hsel, hwf, hck, h⟩ := sampled_next rfl h
  · exact hp
  · obtain ⟨hfits, h⟩ | ⟨hover, rfl⟩ := unlessOverflow_next h
    · cases h
      exact .signalStarted ((State.nextOp_eq_iff_home rfl).mp hsel) hwf hck hfits
    · exact .raised (.timeOverflow hsel hwf (fun _ => hck) hover)

theorem execSigWait_performs (h : execSigWait s = .next t) : Performs s .sigWait t := by
  obtain hp | ⟨hsel, hwf, hck, h⟩ := sampled_next rfl h
  · exact hp
  · cases h
    obtain ⟨hp, hrun⟩ := State.nextOp_eq_sigWait.mp hsel
    exact .signalPolled hp hwf hck hrun

theorem execSigOnEnd_performs (h : execSigOnEnd s = .next t) : Performs s .sigOnEnd t := by
  obtain hp | ⟨hsel, hwf, hck, h⟩ := sampled_next rfl h
  · exact hp
  · obtain ⟨hp, hover, hon⟩ := State.nextOp_eq_sigOnEnd.mp hsel
    obtain ⟨hfits, h⟩ | ⟨hlate, rfl⟩ := unlessOverflow_next h
    · split at h <;> cases h
      · exact .signalEnded hp hwf hck hover hon ‹_›
      · exact .pulseEnded hp hwf hck hover hon ‹_› (hfits ‹_›)
    · exact .raised (.timeOverflow hsel hwf (fun _ => hck) (Classical.not_imp.mp hlate))

theorem execSigOffEnd_performs (h : execSigOffEnd s = .next t) : Performs s .sigOffEnd t := by
  obtain hp | ⟨hsel, hwf, hck, h⟩ := sampled_next rfl h
  · exact hp
  · obtain ⟨hp, hover, hoff⟩ := State.nextOp_eq_sigOffEnd.mp hsel
    obtain ⟨hfits, h⟩ | ⟨hlate, rfl⟩ := unlessOverflow_next h
    · cases h
      exact .pulseStarted hp hwf hck hover hoff hfits
    · exact .raised (.timeOverflow hsel hwf (fun _ => hck) hlate)

theorem execFault_performs {val : Byte} (h : execFault val s = .next t) : Performs s .fault t := by
  unfold execFault at h
  split at h
  · cases h
  · split at h <;> cases h
    exact .raised (.commanded ‹_› ‹_›)

/-- Every next state that `exec` answers is a case of `Performs`. -/
theorem exec_performs {i : Instr} (h : exec i s = .next t) : Performs s i.op t := by
  cases i with
  | reset => cases h; exact .reset
  | init => exact execInit_performs h
  | fill => exact execFill_performs h
  | start => exact execStart_performs h
  | sample => exact execSample_performs h
  | dutyCheck => exact execDutyCheck_performs h
  | modeCheck => exact execModeCheck_performs h
  | iterEnd => exact execIterEnd_performs h
  | yield => exact execYield_performs h
  | sigStart => exact execSigStart_performs h
  | sigWait => exact execSigWait_performs h
  | sigOnEnd => exact execSigOnEnd_performs h
  | sigOffEnd => exact execSigOffEnd_performs h
  | fault => exact execFault_performs h

/-- A step performs RESET on request, passes in phase FAULT, and performs the selected operation otherwise (R221). -/
theorem step_performs (h : step s = .next t) :
    (s.inputs.rst = true ∧ t = s.tick.restart.trace .reset) ∨
    (s.inputs.rst = false ∧ s.phase = .fault ∧ t = s.tick) ∨
    (s.inputs.rst = false ∧ ∃ o, s.nextOp = some o ∧ Performs s o t) := by
  unfold step State.selected at h
  cases hr : s.inputs.rst
  · cases hn : s.nextOp with
    | none =>
      simp only [hr, hn, Bool.false_eq_true, if_false, Option.map_none] at h
      cases h
      exact .inr (.inl ⟨rfl, State.nextOp_eq_none.mp hn, rfl⟩)
    | some o =>
      simp only [hr, hn, Bool.false_eq_true, if_false, Option.map_some] at h
      exact .inr (.inr ⟨rfl, o, rfl, s.fieldsOf_op o ▸ exec_performs h⟩)
  · simp only [hr, if_true] at h
    cases h
    exact .inl ⟨rfl, rfl⟩

end

end Sys2Proof.Machine
end

section
/-! PROOF. What the operations read and write: the configuration, the registers, and the inputs of the step. -/

namespace Sys2Proof.Machine

/-! ## What an operation leaves unchanged -/

theorem Performs.cfg_eq {s t : State} {o : Op} (h : Performs s o t) : t.cfg = s.cfg := by
  cases h <;> rfl

/-- Settles O34: every next state an operation can leave has the configuration it found. -/
theorem configurationNeverChanges : Obligations.ConfigurationNeverChanges :=
  fun _ _ _ h => (exec_performs h).cfg_eq

/-- Settles O33: a faulting step ends in phase FAULT, so what is left is one state per operation that succeeds, and its
registers are compared with the access table. -/
theorem registersChangeOnlyByTheirWriters : Obligations.RegistersChangeOnlyByTheirWriters := by
  intro i s t h hphase hreset
  have hp := exec_performs h
  generalize i.op = o at hp hreset ⊢
  cases hp with
  | raised | initRejected | dutyWriteFailed => exact absurd rfl hphase
  | reset => exact absurd rfl hreset
  | initialized => simp [State.initialized, State.configured]
  | filled => simp [State.filled]
  | started => simp [State.started, samplesClock]
  | sampled => simp [State.sampled, samplesClock]
  | dutyFired => simp [State.dutyFired]
  | dutyPassed => simp [State.dutyPassed]
  | modeFired => simp [State.modeFired]
  | modePassed => simp [State.modePassed]
  | iterYields => simp [State.iterYields]
  | iterRepeats => simp [State.iterRepeats]
  | yielded => simp [State.yielded]
  | signalStarted => simp [State.signalStarted, samplesClock]
  | signalPolled => simp [State.signalPolled, samplesClock]
  | signalEnded => simp [State.signalEnded, samplesClock]
  | pulseEnded => simp [State.pulseEnded, samplesClock]
  | pulseStarted => simp [State.pulseStarted, samplesClock]

/-! ## What an operation reads of its inputs (R41) -/

section
variable {s : State} {e g : Inputs} {o : Op}

@[simp] theorem State.given_inputs (s : State) (e : Inputs) : (s.given e).inputs = e := rfl

@[simp] theorem State.given_phase (s : State) (e : Inputs) : (s.given e).phase = s.phase := rfl

/-- The selection reads the clock only to tell apart the operations that sample it. -/
theorem State.nextOp_given_iff (h : samplesClock o = true → g.clk = e.clk) :
    (s.given g).nextOp = some o ↔ (s.given e).nextOp = some o := by
  cases hs : samplesClock o
  · cases hp : home o with
    | some p => simp only [State.nextOp_eq_iff_home hp, State.given_phase]
    | none =>
      cases o with
      | reset => exact iff_of_false (State.nextOp_ne_reset _) (State.nextOp_ne_reset _)
      | fault => simp only [State.nextOp_eq_fault, State.given_phase]
      | _ => simp [samplesClock, home] at hs hp
  · have hn : (s.given g).nextOp = (s.given e).nextOp := by
      unfold State.nextOp
      simp only [State.given_inputs, h hs]
      rfl
    rw [hn]

theorem selectedOnly_congr {s' : State} {r r' : Result} (hs : s.nextOp = some o ↔ s'.nextOp = some o) (hr : r = r') :
    selectedOnly o s r = selectedOnly o s' r' := by
  simp only [selectedOnly, hs, hr]

end

/-- Settles O56: the selection agrees, and the body of each operation, with the inputs its rule names made equal, is the
same whatever the other inputs are. -/
theorem inputsAreReadOnlyWhereNamed : Obligations.InputsAreReadOnlyWhereNamed := by
  intro i s e g rest hclk hent hcfg hwr
  change exec i (State.given { s with env := rest } g) = exec i (State.given { s with env := rest } e)
  have hsel := State.nextOp_given_iff (s := { s with env := rest }) hclk
  obtain ⟨_, gc, ge, gg, gw⟩ := g
  obtain ⟨_, ec, ee, eg, ew⟩ := e
  cases i with
  | reset | fault => rfl
  | iterEnd | yield | modeCheck => exact selectedOnly_congr hsel rfl
  | init =>
    cases hcfg rfl
    exact selectedOnly_congr hsel rfl
  | fill =>
    cases hent rfl
    exact selectedOnly_congr hsel rfl
  | dutyCheck =>
    cases hwr rfl
    exact selectedOnly_congr hsel rfl
  | start | sample | sigStart | sigWait | sigOnEnd | sigOffEnd =>
    cases hclk rfl
    exact selectedOnly_congr hsel rfl

end Sys2Proof.Machine
end

section
/-! PROOF. The check `WF` is the eight items of the rule: each of the model's readings of an item is the rule's. -/

namespace Sys2Proof.Machine

theorem Phase.code_le_ten_iff {p : Phase} : p.code.toNat ≤ 10 ↔ p.legal = true := by
  cases p with
  | reserved k => revert k; decide
  | _ => decide

theorem SeqState.code_le_two_iff {q : SeqState} : q.code.toNat ≤ 2 ↔ q ≠ .reserved := by
  cases q <;> decide

theorem SeqState.mem_pulse_iff {q : SeqState} : q ∈ [SeqState.on, .off] ↔ q = .on ∨ q = .off := by
  simp

theorem Phase.mem_loop_iff {p : Phase} :
    p ∈ [Phase.sample, .duty, .mode, .sigStart, .signal, .iterEnd, .yield] ↔ p.inLoop = true := by
  cases p <;> simp [Phase.inLoop]

theorem Phase.not_mem_signal_iff {p : Phase} : p ∉ [Phase.sigStart, .signal] ↔ p.inSignal = false := by
  simp

/-- Settles O37: item 4 repeats the bound of item 2 on `seq_rem`; every other item is the model's own, read by the
lemmas above. -/
theorem wellFormedIffTheEightItems : Obligations.WellFormedIffTheEightItems := by
  intro s hcanonical
  simp only [Phase.code_le_ten_iff, SeqState.code_le_two_iff, SeqState.mem_pulse_iff, Phase.mem_loop_iff,
    Phase.not_mem_signal_iff, ← Memory.full_iff hcanonical, ← BitVec.le_def]
  constructor
  · rintro ⟨hvalid, hlegal, hranges, htable, ⟨hstart, hsignal, hidle⟩, htime, hfault⟩
    have hrem : s.seqRem.toNat ≤ s.cfg.m := by
      obtain ⟨-, -, -, -, -, hrem⟩ := hranges
      exact hrem
    exact ⟨hvalid, hlegal, hranges, htable, fun h => ⟨(hstart h).1, (hstart h).2, hrem⟩, hsignal, hidle, htime, hfault⟩
  · rintro ⟨hvalid, hlegal, hranges, htable, hstart, hsignal, hidle, htime, hfault⟩
    exact ⟨hvalid, hlegal, hranges, htable, ⟨fun h => ⟨(hstart h).1, (hstart h).2.1⟩, hsignal, hidle⟩, htime, hfault⟩

end Sys2Proof.Machine
end

section
/-! PROOF. The invariant is kept. `Running` says it again for the phases outside INIT and FAULT, where nothing is left
conditional but the sequencer's state; each operation that succeeds leads into a running state, a fault keeps the part of
the invariant that does not speak of the phase, and RESET restores it. -/

namespace Sys2Proof.Machine

/-! ## The invariant of a running engine -/

/-- The part of the invariant that no phase conditions: what a fault leaves as it was. -/
structure Grounded (s : State) : Prop where
  canonical : s.table.wf = true
  timeOrder : s.tIter ≤ s.tLast
  tableBounds : ∀ i v, s.table.read i = some v → i < s.fillIdx.toNat ∧ s.cfg.min ≤ v.toNat ∧ v.toNat ≤ s.cfg.max
  tableFilled : ∀ i, i < s.fillIdx.toNat → s.table.read i ≠ none
  dutyBound : ∀ d, s.dutyOut = some d → d ≤ s.cfg.nativeMax

/-- The four situations of the feedback sequencer in a running engine, with the indicator and the pulses to come. -/
inductive Sequenced (s : State) : Prop
  | resting (phase : s.phase.inSignal = false) (idle : s.seqState = .idle) (empty : s.seqRem = 0)
      (off : s.indLevel = some .off)
  | armed (phase : s.phase = .sigStart) (idle : s.seqState = .idle) (all : s.seqRem.toNat = signalCount s.mode)
      (off : s.indLevel = some .off)
  | pulse (phase : s.phase = .signal) (on : s.seqState = .on) (left : 1 ≤ s.seqRem.toNat)
      (most : s.seqRem.toNat ≤ signalCount s.mode) (lit : s.indLevel = some .on) (early : s.tLast < s.seqEnd)
  | pause (phase : s.phase = .signal) (off : s.seqState = .off) (left : 1 ≤ s.seqRem.toNat)
      (fewer : s.seqRem.toNat < signalCount s.mode) (dark : s.indLevel = some .off) (early : s.tLast < s.seqEnd)

/-- The phase is one between INIT and FAULT, and `fill_idx` is where the phase has it: below `n` in FILL, at `n` after
(R46 item 3). -/
def Phase.Admits : Phase → (fillIdx n : Nat) → Prop
  | .fill, i, n => i < n
  | .start, i, n | .sample, i, n | .duty, i, n | .mode, i, n | .sigStart, i, n | .signal, i, n | .iterEnd, i, n
  | .yield, i, n => i = n
  | .init, _, _ | .fault, _, _ | .reserved _, _, _ => False

/-- The invariant in a phase between INIT and FAULT. -/
structure Running (s : State) : Prop extends Grounded s where
  noFault : NoFault s
  valid : Valid s.cfg
  modeBound : s.mode.toNat < s.cfg.m
  cursorBound : s.cursor.toNat < s.cfg.n
  cadence : s.iterCnt.toNat < s.cfg.k
  placed : s.phase.Admits s.fillIdx.toNat s.cfg.n
  sequenced : Sequenced s

section
variable {s t : State}

theorem Inv.grounded (h : Inv s) : Grounded s :=
  ⟨h.canonical, h.timeOrder, h.tableBounds, h.tableFilled, h.dutyBound⟩

theorem Phase.Admits.between {p : Phase} {i n : Nat} (h : p.Admits i n) :
    p.legal = true ∧ p ≠ .init ∧ p ≠ .fault := by
  cases p <;> simp_all [Phase.Admits, Phase.legal]

theorem Phase.Admits.le {p : Phase} {i n : Nat} (h : p.Admits i n) : i ≤ n := by
  cases p <;> simp_all [Phase.Admits, Nat.le_of_lt]

theorem Phase.Admits.eq {p : Phase} {i n : Nat} (h : p.Admits i n) (hp : p ≠ .fill) : i = n := by
  cases p <;> simp_all [Phase.Admits]

theorem State.TableOk.admits (h : s.TableOk) (hl : s.phase.legal = true) (hi : s.phase ≠ .init)
    (hf : s.phase ≠ .fault) : s.phase.Admits s.fillIdx.toNat s.cfg.n := by
  obtain ⟨hfill, hstart, hloop⟩ := h
  cases hp : s.phase with
  | init => exact absurd hp hi
  | fault => exact absurd hp hf
  | reserved => simp [hp, Phase.legal] at hl
  | fill => exact hfill hp
  | start => exact hstart hp
  | _ => exact (hloop (by rw [hp]; rfl)).1

/-! ### What the sequencer's situation says of the invariant's conditions -/

theorem Sequenced.sequencerOk (h : Sequenced s) : s.SequencerOk := by
  cases h <;> simp_all [State.SequencerOk, signalCount]

theorem Sequenced.ne_reserved (h : Sequenced s) : s.seqState ≠ .reserved := by
  cases h <;> simp_all

theorem Sequenced.seqRem_le (h : Sequenced s) : s.seqRem.toNat ≤ signalCount s.mode := by
  cases h <;> simp_all [Nat.le_of_lt]

theorem Sequenced.indicator (h : Sequenced s) :
    s.indLevel = some (if s.phase = .signal ∧ s.seqState = .on then .on else .off) := by
  cases h <;> simp_all

theorem Sequenced.pulses (h : Sequenced s) :
    (s.phase = .sigStart → s.seqRem.toNat = signalCount s.mode) ∧
    (s.phase = .signal → s.seqState = .on → s.seqRem.toNat ≤ signalCount s.mode) ∧
    (s.phase = .signal → s.seqState = .off → s.seqRem.toNat < signalCount s.mode) ∧
    (s.phase.inSignal = false → s.seqRem = 0) := by
  cases h <;> simp_all

theorem Sequenced.pulseEnd (h : Sequenced s) (hp : s.phase = .signal) : s.tLast < s.seqEnd := by
  cases h <;> simp_all

theorem Inv.sequenced (h : Inv s) (hi : s.phase ≠ .init) (hf : s.phase ≠ .fault) : Sequenced s := by
  obtain ⟨-, -, -, -, ⟨harmed, hsignal, hidle⟩, -⟩ := h.wellFormed hi hf
  obtain ⟨hcount, hon, hoff, hnone⟩ := h.pulses hi hf
  have hind := h.indicator hi hf
  cases hp : s.phase.inSignal
  · have hne : s.phase ≠ .signal := by
      rintro hs
      simp [hs, Phase.inSignal] at hp
    exact .resting hp (hidle hp) (hnone hp) (by rw [hind, if_neg (fun hs => hne hs.1)])
  · obtain hs | hs := Phase.inSignal_eq_true.mp hp
    · exact .armed hs (harmed hs).1 (hcount hs) (by simp [hind, hs])
    · obtain ⟨hq | hq, hleft⟩ := hsignal hs
      · exact .pulse hs hq hleft (hon hs hq) (by simp [hind, hs, hq]) (h.pulseEnd hs)
      · exact .pause hs hq hleft (hoff hs hq) (by simp [hind, hq]) (h.pulseEnd hs)

theorem Inv.running {p : Phase} (h : Inv s) (hp : s.phase = p) (hpi : p ≠ .init) (hpf : p ≠ .fault) : Running s := by
  have hi : s.phase ≠ .init := hp ▸ hpi
  have hf : s.phase ≠ .fault := hp ▸ hpf
  obtain ⟨hvalid, hlegal, ⟨hmode, hcursor, -, hcnt, -⟩, htable, -⟩ := h.wellFormed hi hf
  exact { h.grounded with
    noFault := Decidable.not_not.mp (mt h.faulted.mpr hf)
    valid := hvalid
    modeBound := hmode
    cursorBound := hcursor
    cadence := hcnt
    placed := htable.admits hlegal hi hf
    sequenced := h.sequenced hi hf }

/-- The place of `fill_idx` as a fact about a known phase. -/
theorem Running.placedAt {p : Phase} (h : Running s) (hp : s.phase = p) : p.Admits s.fillIdx.toNat s.cfg.n :=
  hp ▸ h.placed

theorem Running.full (h : Running s) (hp : s.phase ≠ .fill) : s.fillIdx.toNat = s.cfg.n :=
  h.placed.eq hp

theorem Running.wf (h : Running s) : s.WF := by
  obtain ⟨hlegal, -, hf⟩ := h.placed.between
  have hloop (hp : s.phase.inLoop = true) : s.fillIdx.toNat = s.cfg.n ∧ s.table.full s.cfg.n = true := by
    have hn := h.full fun hs => by simp [hs, Phase.inLoop] at hp
    exact ⟨hn, (Memory.full_iff h.canonical).mpr fun i hi => h.tableFilled i (hn ▸ hi)⟩
  exact ⟨h.valid, hlegal,
    ⟨h.modeBound, h.cursorBound, h.placed.le, h.cadence, h.sequenced.ne_reserved,
      Nat.le_trans h.sequenced.seqRem_le h.modeBound⟩,
    ⟨h.placedAt, h.placedAt, hloop⟩,
    h.sequenced.sequencerOk, h.timeOrder, iff_of_false hf (not_not_intro h.noFault)⟩

theorem Running.inv (h : Running s) : Inv s := by
  obtain ⟨hlegal, hi, hf⟩ := h.placed.between
  exact {
    canonical := h.canonical
    legal := hlegal
    faulted := iff_of_false hf (not_not_intro h.noFault)
    timeOrder := h.timeOrder
    atInit := fun hp => absurd hp hi
    wellFormed := fun _ _ => h.wf
    tableBounds := h.tableBounds
    tableFilled := h.tableFilled
    dutyBound := h.dutyBound
    indicator := fun _ _ => h.sequenced.indicator
    pulses := fun _ _ => h.sequenced.pulses
    pulseEnd := h.sequenced.pulseEnd }

/-! ## RESET and the faults -/

theorem ResetState.inv {c : Cfg} (h : ResetState c s) : Inv s := by
  rw [h]
  exact {
    canonical := rfl
    legal := rfl
    faulted := iff_of_false nofun fun hc => hc rfl
    timeOrder := BitVec.le_refl _
    atInit := fun _ => rfl
    wellFormed := fun hi => absurd rfl hi
    tableBounds := nofun
    tableFilled := fun i hi => absurd hi (Nat.not_lt_zero i)
    dutyBound := nofun
    indicator := fun hi => absurd rfl hi
    pulses := fun hi => absurd rfl hi
    pulseEnd := nofun }

theorem inv_reset (s : State) : Inv (s.tick.restart.trace .reset) := ResetState.inv (c := s.cfg) rfl

theorem Grounded.tick (h : Grounded s) : Grounded s.tick := { h with }

theorem Grounded.configured (h : Grounded s) : Grounded s.configured := { h with }

theorem Grounded.inv_raise (h : Grounded s) (c : FaultCode) : Inv (s.raise c) where
  canonical := h.canonical
  legal := rfl
  faulted := iff_of_true rfl c.code_ne_zero
  timeOrder := h.timeOrder
  atInit := nofun
  wellFormed := fun _ hf => absurd rfl hf
  tableBounds := h.tableBounds
  tableFilled := h.tableFilled
  dutyBound := h.dutyBound
  indicator := fun _ hf => absurd rfl hf
  pulses := fun _ hf => absurd rfl hf
  pulseEnd := nofun

/-! ## The operations that succeed -/

theorem Sequenced.atRest (h : Sequenced s) (hs : s.phase.inSignal = false) :
    s.seqState = .idle ∧ s.seqRem = 0 ∧ s.indLevel = some .off := by
  cases h with
  | resting _ hidle hempty hoff => exact ⟨hidle, hempty, hoff⟩
  | armed hp | pulse hp | pause hp => simp [hp] at hs

/-- Between two phases outside the signal the sequencer goes on resting if nothing of it is written. -/
theorem Sequenced.rests (h : Sequenced s) (hs : s.phase.inSignal = false) (ht : t.phase.inSignal = false)
    (hstate : t.seqState = s.seqState) (hrem : t.seqRem = s.seqRem) (hlevel : t.indLevel = s.indLevel) :
    Sequenced t := by
  obtain ⟨hidle, hempty, hoff⟩ := h.atRest hs
  exact .resting ht (hstate.trans hidle) (hrem.trans hempty) (hlevel.trans hoff)

theorem Inv.initialized (h : Inv s) (hp : s.phase = .init) (hv : Valid s.cfg) : Running s.initialized := by
  have ⟨⟨hn, _⟩, _, ⟨hm, _⟩, _, _, _, _, ⟨hk, _⟩⟩ := hv
  rw [h.atInit hp]
  exact {
    canonical := rfl
    timeOrder := BitVec.le_refl _
    tableBounds := nofun
    tableFilled := fun i hi => absurd hi (Nat.not_lt_zero i)
    dutyBound := nofun
    noFault := rfl
    valid := hv
    modeBound := hm
    cursorBound := hn
    cadence := hk
    placed := hn
    sequenced := .resting rfl rfl rfl rfl }

theorem Running.filled (h : Running s) (hp : s.phase = .fill)
    (hb : s.cfg.min ≤ s.inputs.entropy.toNat ∧ s.inputs.entropy.toNat ≤ s.cfg.max) : Running s.filled := by
  obtain ⟨⟨-, hn⟩, -⟩ := h.valid
  have hlt : s.fillIdx.toNat < s.cfg.n := h.placedAt hp
  have hidx : s.filled.fillIdx.toNat = s.fillIdx.toNat + 1 := by
    simp only [State.filled, State.trace_fillIdx, BitVec.toNat_ofNat]
    omega
  have hread (i : Nat) : s.filled.table.read i =
      if i = s.fillIdx.toNat then some s.inputs.entropy else s.table.read i := Memory.read_write ..
  have hphase : s.filled.phase = if s.fillIdx.toNat + 1 = s.cfg.n then .start else .fill := hp ▸ rfl
  exact { h with
    canonical := Memory.wf_write _ _ h.canonical
    tableBounds := fun i v hv => by
      rw [hidx]
      rw [hread] at hv
      split at hv
      · cases hv
        exact ⟨by omega, hb⟩
      · obtain ⟨hi, hv⟩ := h.tableBounds i v hv
        exact ⟨by omega, hv⟩
    tableFilled := fun i hi => by
      rw [hidx] at hi
      rw [hread]
      split
      · exact Option.some_ne_none _
      · exact h.tableFilled i (by omega)
    placed := by
      rw [hphase, hidx]
      split
      · assumption
      · exact Nat.lt_of_le_of_ne hlt ‹_›
    sequenced := h.sequenced.rests (by simp [hp]) (by rw [hphase]; split <;> rfl) rfl rfl rfl }

theorem Running.started (h : Running s) (hp : s.phase = .start) : Running s.started := by
  obtain ⟨⟨hn, -⟩, -, ⟨hm, -⟩, -, -, -, -, ⟨hk, -⟩⟩ := h.valid
  exact { h with
    timeOrder := BitVec.le_refl _
    modeBound := hm
    cursorBound := hn
    cadence := hk
    placed := h.full (by simp [hp])
    sequenced := h.sequenced.rests (by simp [hp]) rfl rfl rfl rfl }

theorem Running.sampled (h : Running s) (hp : s.phase = .sample) : Running s.sampled :=
  { h with
    timeOrder := BitVec.le_refl _
    placed := h.full (by simp [hp])
    sequenced := h.sequenced.rests (by simp [hp]) rfl rfl rfl rfl }

theorem Running.dutyFired (h : Running s) (hp : s.phase = .duty) (v : Byte) : Running (s.dutyFired v) := by
  obtain ⟨⟨hn1, hn⟩, -⟩ := h.valid
  exact { h with
    dutyBound := fun d hd => by
      cases hd
      exact scale_le _ v
    cursorBound := (nextCursor_toNat _ hn1 hn).trans_lt (Nat.mod_lt _ hn1)
    placed := h.full (by simp [hp])
    sequenced := h.sequenced.rests (by simp [hp]) rfl rfl rfl rfl }

theorem Running.dutyPassed (h : Running s) (hp : s.phase = .duty) : Running s.dutyPassed :=
  { h with
    placed := h.full (by simp [hp])
    sequenced := h.sequenced.rests (by simp [hp]) rfl rfl rfl rfl }

theorem Running.modeFired (h : Running s) (hp : s.phase = .mode) : Running s.modeFired := by
  obtain ⟨-, -, ⟨hm1, hm8, -⟩, -⟩ := h.valid
  obtain ⟨hidle, -, hoff⟩ := h.sequenced.atRest (by simp [hp])
  exact { h with
    modeBound := (advance_toNat _ hm1 hm8).trans_lt (Nat.mod_lt _ hm1)
    placed := h.full (by simp [hp])
    sequenced := .armed rfl hidle (signalCount_toNat _) hoff }

theorem Running.modePassed (h : Running s) (hp : s.phase = .mode) : Running s.modePassed :=
  { h with
    placed := h.full (by simp [hp])
    sequenced := h.sequenced.rests (by simp [hp]) rfl rfl rfl rfl }

theorem Running.iterYields (h : Running s) (hp : s.phase = .iterEnd) : Running s.iterYields :=
  { h with
    cadence := Nat.zero_lt_of_lt h.cadence
    placed := h.full (by simp [hp])
    sequenced := h.sequenced.rests (by simp [hp]) rfl rfl rfl rfl }

theorem Running.iterRepeats (h : Running s) (hp : s.phase = .iterEnd) (hk : ¬s.YieldFollows) :
    Running s.iterRepeats := by
  have hlt : s.iterCnt.toNat + 1 < s.cfg.k := Nat.lt_of_le_of_ne h.cadence hk
  exact { h with
    cadence := (Nat.mod_le _ _).trans_lt hlt
    placed := h.full (by simp [hp])
    sequenced := h.sequenced.rests (by simp [hp]) rfl rfl rfl rfl }

theorem Running.yielded (h : Running s) (hp : s.phase = .yield) : Running s.yielded :=
  { h with
    placed := h.full (by simp [hp])
    sequenced := h.sequenced.rests (by simp [hp]) rfl rfl rfl rfl }

theorem Running.signalStarted (h : Running s) (hp : s.phase = .sigStart) (hclk : s.ClockOk)
    (hfits : FitsTime s.inputs.clk s.cfg.tOn) : Running s.signalStarted := by
  obtain ⟨-, -, -, -, ⟨-, ⟨hon, -⟩, -⟩, -⟩ := h.valid
  obtain ⟨harmed, -⟩ := h.sequenced.pulses
  have hcount : s.seqRem.toNat = signalCount s.mode := harmed hp
  exact { h with
    timeOrder := BitVec.le_trans h.timeOrder hclk
    placed := h.full (by simp [hp])
    sequenced := .pulse rfl rfl (hcount ▸ Nat.le_add_left 1 _) hcount.le rfl (lt_deadline hfits hon) }

theorem Running.signalPolled (h : Running s) (hp : s.phase = .signal) (hclk : s.ClockOk)
    (hrun : s.PulseRunning s.inputs.clk) : Running s.signalPolled :=
  { h with
    timeOrder := BitVec.le_trans h.timeOrder hclk
    sequenced := by
      cases h.sequenced with
      | resting hq | armed hq => simp [hp] at hq
      | pulse _ hon hleft hmost hlit => exact .pulse hp hon hleft hmost hlit hrun
      | pause _ hoff hleft hfewer hdark => exact .pause hp hoff hleft hfewer hdark hrun }

theorem Running.signalEnded (h : Running s) (hp : s.phase = .signal) (hclk : s.ClockOk) (hlast : s.seqRem - 1 = 0) :
    Running s.signalEnded :=
  { h with
    timeOrder := BitVec.le_trans h.timeOrder hclk
    placed := h.full (by simp [hp])
    sequenced := .resting rfl rfl hlast rfl }

theorem Running.pulseEnded (h : Running s) (hp : s.phase = .signal) (hclk : s.ClockOk) (hon : s.seqState = .on)
    (hmore : s.seqRem - 1 ≠ 0) (hfits : FitsTime s.inputs.clk s.cfg.tOff) : Running s.pulseEnded := by
  obtain ⟨-, -, -, -, ⟨-, -, ⟨hoff, -⟩⟩, -⟩ := h.valid
  exact { h with
    timeOrder := BitVec.le_trans h.timeOrder hclk
    sequenced := by
      cases h.sequenced with
      | resting hq | armed hq => simp [hp] at hq
      | pause _ hq => simp [hon] at hq
      | pulse _ _ hleft hmost =>
        have hpos : 1 ≤ (s.seqRem - 1).toNat := by bv_omega
        have hfewer : (s.seqRem - 1).toNat < signalCount s.mode := by bv_omega
        exact .pause hp rfl hpos hfewer rfl (lt_deadline hfits hoff) }

theorem Running.pulseStarted (h : Running s) (hp : s.phase = .signal) (hclk : s.ClockOk) (hoff : s.seqState ≠ .on)
    (hfits : FitsTime s.inputs.clk s.cfg.tOn) : Running s.pulseStarted := by
  obtain ⟨-, -, -, -, ⟨-, ⟨hon, -⟩, -⟩, -⟩ := h.valid
  exact { h with
    timeOrder := BitVec.le_trans h.timeOrder hclk
    sequenced := by
      cases h.sequenced with
      | resting hq | armed hq => simp [hp] at hq
      | pulse _ hq => exact absurd hq hoff
      | pause _ _ hleft hfewer => exact .pulse hp rfl hleft hfewer.le rfl (lt_deadline hfits hon) }

/-! ## Every operation keeps the invariant -/

/-- Every next state an operation can leave has the invariant, if the state before has it. -/
theorem Performs.inv {o : Op} (hs : Performs s o t) (h : Inv s) : Inv t := by
  cases hs with
  | raised => exact h.grounded.tick.inv_raise _
  | initRejected => exact h.grounded.configured.inv_raise _
  | reset => exact inv_reset s
  | initialized hp hv => exact (h.initialized hp hv).inv
  | filled hp _ hb => exact ((h.running hp nofun nofun).filled hp hb).inv
  | started hp => exact ((h.running hp nofun nofun).started hp).inv
  | sampled hp => exact ((h.running hp nofun nofun).sampled hp).inv
  | dutyFired hp => exact ((h.running hp nofun nofun).dutyFired hp _).inv
  | dutyWriteFailed hp => exact ((h.running hp nofun nofun).dutyFired hp _).toGrounded.inv_raise _
  | dutyPassed hp => exact ((h.running hp nofun nofun).dutyPassed hp).inv
  | modeFired hp => exact ((h.running hp nofun nofun).modeFired hp).inv
  | modePassed hp => exact ((h.running hp nofun nofun).modePassed hp).inv
  | iterYields hp => exact ((h.running hp nofun nofun).iterYields hp).inv
  | iterRepeats hp _ hk => exact ((h.running hp nofun nofun).iterRepeats hp hk).inv
  | yielded hp => exact ((h.running hp nofun nofun).yielded hp).inv
  | signalStarted hp _ hclk hfits => exact ((h.running hp nofun nofun).signalStarted hp hclk hfits).inv
  | signalPolled hp _ hclk hrun => exact ((h.running hp nofun nofun).signalPolled hp hclk hrun).inv
  | signalEnded hp _ hclk _ _ hlast => exact ((h.running hp nofun nofun).signalEnded hp hclk hlast).inv
  | pulseEnded hp _ hclk _ hon hmore hfits =>
    exact ((h.running hp nofun nofun).pulseEnded hp hclk hon hmore hfits).inv
  | pulseStarted hp _ hclk _ hoff hfits => exact ((h.running hp nofun nofun).pulseStarted hp hclk hoff hfits).inv

/-- An operation that a state with the invariant selects finds it well formed. -/
theorem Raises.ne_illegalState {o : Op} {c : FaultCode} (hr : Raises s o c) (hsel : s.nextOp = some o) (h : Inv s) :
    c ≠ .illegalState := by
  rintro rfl
  cases hr with
  | illegalState hchecks _ hwf =>
    refine hwf (h.wellFormed (fun hp => ?_) (fun hp => ?_))
    · rw [(State.nextOp_eq_iff_home (o := .init) rfl).mpr hp] at hsel
      cases hsel
      cases hchecks
    · simp [State.nextOp_eq_none.mpr hp] at hsel
  | commanded => simpa [State.nextOp_eq_fault.mp hsel] using h.legal

end

/-! ## The obligations -/

/-- Settles O38: the reset values meet the invariant field by field, in phase INIT, where most of it is not asked. -/
theorem invariantHoldsAtReset : Obligations.InvariantHoldsAtReset := fun _ _ h => h.inv

/-- Settles O39: RESET restores the invariant, a passing step changes no register, and an operation keeps it. -/
theorem stepKeepsTheInvariant : Obligations.StepKeepsTheInvariant := by
  intro s t h hstep
  obtain ⟨-, rfl⟩ | ⟨-, hp, rfl⟩ | ⟨-, o, -, hs⟩ := step_performs hstep
  · exact inv_reset s
  · exact { h with
      atInit := fun hi => absurd (hp.symm.trans hi) nofun
      wellFormed := fun _ hf => absurd hp hf }
  · exact hs.inv h

/-- Settles O40: the only cause with code 6 is ILLEGAL_STATE, and what does not fault keeps the code 0. -/
theorem illegalStateIsUnreachable : Obligations.IllegalStateIsUnreachable := by
  intro s t h hphase hstep
  have hnone : s.faultCode = 0 := Decidable.not_not.mp (mt h.faulted.mpr hphase)
  have zero_ne_six : (0 : BitVec 4) ≠ 6 := by decide
  have hkept : s.faultCode ≠ 6 := hnone ▸ zero_ne_six
  obtain ⟨-, rfl⟩ | ⟨-, hp, rfl⟩ | ⟨-, o, hsel, hs⟩ := step_performs hstep
  · exact zero_ne_six
  · exact absurd hp hphase
  · cases hs with
    | raised why => exact mt FaultCode.code_eq_six_iff.mp (why.ne_illegalState hsel h)
    | initRejected | dutyWriteFailed => exact mt FaultCode.code_eq_six_iff.mp nofun
    | reset => exact zero_ne_six
    | _ => exact hkept

end Sys2Proof.Machine
end

section
/-! PROOF. The DutyTable: what a read gives after a write, and who writes the table (spec/20_memory.md). -/

namespace Sys2Proof.Machine

/-! ## Who writes the table -/

/-- RESET and FILL are the only writers, and a FILL that writes found `fill_idx` below `N` (R46 item 3, R63). -/
theorem Performs.table_eq_of_filled {s t : State} {o : Op} (h : Performs s o t) (hreset : o ≠ .reset)
    (hfilled : s.fillIdx.toNat = s.cfg.n) : t.table = s.table := by
  cases h with
  | reset => exact absurd rfl hreset
  | filled hphase hwf =>
    obtain ⟨-, -, -, ⟨hbelow, -⟩, -⟩ := hwf
    exact absurd hfilled (hbelow hphase).ne
  | _ => rfl

theorem Instr.eq_reset_of_op_eq {i : Instr} (h : i.op = .reset) : i = .reset := by
  cases i with
  | reset => rfl
  | _ => cases h

/-! ## The obligations -/

/-- Settles O35: no operation but RESET writes a filled table, and RESET's table is the empty one. -/
theorem filledTableIsImmutable : Obligations.FilledTableIsImmutable := by
  intro i s t h
  constructor
  · intro hreset hfilled
    exact (exec_performs h).table_eq_of_filled hreset hfilled
  · intro hop j
    cases Instr.eq_reset_of_op_eq hop
    cases h
    rfl

/-- Settles O36: the read-after-write rule of the table, proved by induction on its cells. -/
theorem tableReadAfterWrite : Obligations.TableReadAfterWrite :=
  Memory.read_write

end Sys2Proof.Machine
end

section
/-! PROOF. The encoding (spec/30_encoding.md): a word is its five fields, decoding and encoding are inverse to each
other, and the verdict on a word under a `cfg`. -/

namespace Sys2Proof

/-! ## Fields and words (R83) -/

theorem packWord_fields (w : TraceWord) :
    packWord (opField w) (fField w) (mdField w) (idxField w) (valField w) = w := by
  apply BitVec.eq_of_toNat_eq
  simp only [packWord_toNat, opField, fField, mdField, idxField, valField, BitVec.extractLsb'_toNat,
    Nat.shiftRight_eq_div_pow]
  omega

theorem packWord_inj {op op' : BitVec 4} {f f' : BitVec 1} {md md' : ModeNo} {idx idx' : Index} {val val' : Byte} :
    packWord op f md idx val = packWord op' f' md' idx' val' ↔
      op = op' ∧ f = f' ∧ md = md' ∧ idx = idx' ∧ val = val' := by
  constructor
  · intro h
    have hop := congrArg opField h
    have hf := congrArg fField h
    have hmd := congrArg mdField h
    have hidx := congrArg idxField h
    have hval := congrArg valField h
    simp only [opField_packWord, fField_packWord, mdField_packWord, idxField_packWord, valField_packWord]
      at hop hf hmd hidx hval
    exact ⟨hop, hf, hmd, hidx, hval⟩
  · rintro ⟨rfl, rfl, rfl, rfl, rfl⟩
    rfl

/-- Settles O1: each field is a shift and a remainder, and their weighted sum is the word. -/
theorem fieldsAreBitsOfTheWord : Obligations.FieldsAreBitsOfTheWord := by
  intro w
  have hop : (opField w).toNat = w.toNat / 2 ^ 28 := by
    simp only [opField, BitVec.extractLsb'_toNat, Nat.shiftRight_eq_div_pow]
    omega
  have hval : (valField w).toNat = w.toNat % 256 := BitVec.extractLsb'_toNat ..
  have hfield (lo len : Nat) : (w.extractLsb' lo len).toNat = w.toNat / 2 ^ lo % 2 ^ len := by
    rw [BitVec.extractLsb'_toNat, Nat.shiftRight_eq_div_pow]
  exact ⟨hop, hfield 27 1, hfield 24 3, hfield 8 16, hval, packWord_fields w⟩

/-! ## Decoding and encoding are inverse (R84) -/

/-- The F bit as the decoder reads it is the F bit as the encoder writes it. -/
@[simp] theorem ofBool_beq_one (f : Bool) : (BitVec.ofBool f == 1#1) = f := by cases f <;> rfl

@[simp] theorem ofBool_of_beq_one (f : BitVec 1) : BitVec.ofBool (f == 1#1) = f := by revert f; decide

theorem whenFixed_eq_ok {ok : Prop} [Decidable ok] {i j : Instr} : whenFixed ok i = .ok j ↔ ok ∧ i = j := by
  unfold whenFixed
  split <;> simp [*]

theorem whenFixed_ne_reservedOp {ok : Prop} [Decidable ok] {i : Instr} : whenFixed ok i ≠ .error .reservedOp := by
  unfold whenFixed
  split <;> simp

/-- Settles O2: the decoder reads back the code, finds the row, and each field of the row is what was packed. -/
theorem encodeThenDecode : Obligations.EncodeThenDecode := by
  intro i
  have row (o : Op) (f : BitVec 1) (md : ModeNo) (idx : Index) (val : Byte) :
      Op.ofCode (opField (packWord o.code f md idx val)) = some o := by
    rw [opField_packWord, Op.ofCode_code]
  cases i <;>
    simp [encode, decode, row, whenFixed, fField_packWord, mdField_packWord, idxField_packWord, valField_packWord]

theorem decode_eq_reservedOp_iff {w : TraceWord} :
    decode w = .error .reservedOp ↔ Op.ofCode (opField w) = none := by
  unfold decode
  cases Op.ofCode (opField w) with
  | none => simp
  | some o =>
    cases o with
    | dutyCheck => simp
    | _ => simp [whenFixed_ne_reservedOp]

/-- Settles O3: the row that the decoder found fixes the fields its operation does not have, and the operation has the
others, so that the word is packed from the operation's own fields. -/
theorem decodeThenEncode : Obligations.DecodeThenEncode := by
  intro w i h
  cases ho : Op.ofCode (opField w) with
  | none =>
    rw [decode_eq_reservedOp_iff.mpr ho] at h
    cases h
  | some o =>
    have hw : packWord o.code (fField w) (mdField w) (idxField w) (valField w) = w := by
      rw [Op.code_of_ofCode _ _ ho, packWord_fields]
    unfold decode at h
    rw [ho] at h
    cases o with
    | dutyCheck =>
      cases h
      simpa [encode] using hw
    | _ =>
      obtain ⟨hfixed, rfl⟩ := whenFixed_eq_ok.mp h
      simpa [encode, hfixed] using hw

theorem decode_eq_ok_iff {w : TraceWord} {i : Instr} : decode w = .ok i ↔ w = encode i :=
  ⟨fun h => (decodeThenEncode w i h).symm, fun h => h ▸ encodeThenDecode i⟩

/-! ## The verdict under a `cfg` (R85) -/

theorem verdict_eq_ok_iff {c : Cfg} {w : TraceWord} {i : Instr} :
    verdict c w = .ok i ↔ w = encode i ∧ i.wellFormed c = true := by
  rw [← decode_eq_ok_iff, verdict]
  cases decode w with
  | error e => simp [Except.bind]
  | ok j =>
    simp only [Except.bind, inRange, Except.ok.injEq]
    split <;> grind

theorem verdict_eq_reservedOp_iff {c : Cfg} {w : TraceWord} :
    verdict c w = .error .reservedOp ↔ decode w = .error .reservedOp := by
  rw [verdict]
  cases decode w with
  | error e => simp [Except.bind]
  | ok j =>
    simp only [Except.bind, inRange]
    split <;> simp

theorem Op.ofCode_eq_none_iff {code : BitVec 4} : Op.ofCode code = none ↔ code = 0xD#4 ∨ code = 0xE#4 := by
  revert code
  decide

/-- Settles O4: clause (c) never gives this error, and the codes that name no operation are 0xD and 0xE. -/
theorem reservedOpcodesAreInvalid : Obligations.ReservedOpcodesAreInvalid := by
  intro c w
  rw [verdict_eq_reservedOp_iff, decode_eq_reservedOp_iff, Op.ofCode_eq_none_iff]

/-- An operation with a property is of one of the rows of rule R84. -/
theorem Instr.exists_iff {p : Instr → Prop} :
    (∃ i, p i) ↔
      p .reset ∨ (∃ md, p (.init md)) ∨ (∃ md idx val, p (.fill md idx val)) ∨ p .start ∨ (∃ md, p (.sample md)) ∨
      (∃ f md idx val, p (.dutyCheck f md idx val)) ∨ (∃ f md val, p (.modeCheck f md val)) ∨
      (∃ f md, p (.iterEnd f md)) ∨ (∃ md, p (.yield md)) ∨ (∃ md val, p (.sigStart md val)) ∨
      (∃ f md val, p (.sigWait f md val)) ∨ (∃ md val, p (.sigOnEnd md val)) ∨ (∃ md val, p (.sigOffEnd md val)) ∨
      (∃ md val, p (.fault md val)) := by
  constructor
  · rintro ⟨i, h⟩
    cases i <;> grind
  · rintro (h | ⟨_, h⟩ | ⟨_, _, _, h⟩ | h | ⟨_, h⟩ | ⟨_, _, _, _, h⟩ | ⟨_, _, _, h⟩ | ⟨_, _, h⟩ | ⟨_, h⟩ | ⟨_, _, h⟩ |
      ⟨_, _, _, h⟩ | ⟨_, _, h⟩ | ⟨_, _, h⟩ | ⟨_, _, h⟩) <;> exact ⟨_, h⟩

/-- Settles O5: the valid words are the encodings of well-formed operations, and for each code only the row of its own
operation is left on either side. -/
theorem verdictOkIffFieldsInRange : Obligations.VerdictOkIffFieldsInRange := by
  intro c w
  have hw := packWord_fields w
  generalize opField w = op, fField w = f, mdField w = md, idxField w = idx, valField w = val at hw ⊢
  subst hw
  have hbit : f = 0 ∨ f = 1 := by revert f; decide
  have hmd : md.toNat = 0 ↔ md = 0 := by bv_omega
  have hidx : idx.toNat = 0 ↔ idx = 0 := by bv_omega
  have hval : val.toNat = 0 ↔ val = 0 := by bv_omega
  simp only [verdict_eq_ok_iff, Instr.exists_iff, encode, packWord_inj, Instr.wellFormed, Bool.exists_bool, hmd, hidx,
    hval]
  cases ho : Op.ofCode op with
  | none =>
    obtain rfl | rfl := Op.ofCode_eq_none_iff.mp ho
    · simp [Op.code]
    · simp [Op.code]
  | some o =>
    obtain rfl := Op.code_of_ofCode _ _ ho
    cases o with
    | dutyCheck | modeCheck | iterEnd | sigWait =>
      obtain rfl | rfl := hbit
      · simp [Op.code, and_assoc, and_comm]
      · simp [Op.code, and_assoc, and_comm]
    | start =>
      by_cases hmode : md = 0#3
      · simp [Op.code, hmode, and_assoc, and_left_comm, and_comm]
      · simp [Op.code, hmode]
    | _ => simp [Op.code, and_assoc, and_left_comm, and_comm]

/-- Settles O6: the table's words are decoded by computation. -/
theorem exampleWordsDecode : Obligations.ExampleWordsDecode := by
  unfold Obligations.ExampleWordsDecode
  decide

end Sys2Proof
end

section
/-! PROOF. The trace words of a step (spec/30_encoding.md rules R81 and R85): which words an operation emits, that they
are valid, and that the last event of a step is one. -/

namespace Sys2Proof.Machine

/-! ## Trace words among events -/

theorem traceWords_append (es es' : List Event) : traceWords (es ++ es') = traceWords es ++ traceWords es' := by
  induction es with
  | nil => rfl
  | cons e es ih => cases e <;> simp [traceWords, ih]

theorem mem_traceWords {w : TraceWord} {es : List Event} : w ∈ traceWords es ↔ .trace w ∈ es := by
  induction es with
  | nil => simp [traceWords]
  | cons e es ih => cases e <;> simp [traceWords, ih]

theorem traceWords_trace (s : State) (i : Instr) : traceWords (s.trace i).out = traceWords s.out ++ [encode i] :=
  traceWords_append ..

theorem traceWords_raise (s : State) (c : FaultCode) :
    traceWords (s.raise c).out = traceWords s.out ++ [encode (.fault s.mode c.val)] :=
  traceWords_append ..

/-! ## The words an operation emits (R81) -/

/-- How an operation performed in `s` reports itself: by its own word, by the FAULT word in its place, or, where a PWM
write fails after all effects, by both. -/
inductive Reports (s : State) (o : Op) (t : State) : Prop
  | own (goesOn : t.phase ≠ .fault) (words : traceWords t.out = [encode (s.fieldsOf o)])
  | fault {c : FaultCode} (stops : t.phase = .fault) (code : t.faultCode = c.code)
      (early : c = .pwmWriteFailed → o = .fault) (words : traceWords t.out = [encode (.fault s.mode c.val)])
  | both (stops : t.phase = .fault) (code : t.faultCode = FaultCode.pwmWriteFailed.code) (duty : o = .dutyCheck)
      (words : traceWords t.out = [encode (s.fieldsOf o), encode (.fault s.mode FaultCode.pwmWriteFailed.val)])

section
variable {s t : State} {o : Op}

/-- A write can fail only after the operation has begun its effects; the operation FAULT is told its cause. -/
theorem Raises.eq_fault_of_pwmWriteFailed (h : Raises s o .pwmWriteFailed) : o = .fault := by
  cases h
  rfl

theorem State.fieldsOf_dutyCheck_of_due {v : Byte} (due : s.DutyDue) (read : s.memRead s.cursor = some v) :
    s.fieldsOf .dutyCheck = .dutyCheck true s.mode s.cursor v := by
  rw [State.fieldsOf, if_pos due, read, Option.getD_some]

theorem traceWords_trace_fieldsOf {i : Instr} (hi : s.fieldsOf o = i) (ht : traceWords t.out = []) :
    traceWords (t.trace i).out = [encode (s.fieldsOf o)] := by
  rw [hi, traceWords_trace, ht, List.nil_append]

theorem traceWords_dutyFired {v : Byte} (due : s.DutyDue) (read : s.memRead s.cursor = some v) :
    traceWords (s.dutyFired v).out = [encode (s.fieldsOf .dutyCheck)] :=
  traceWords_trace_fieldsOf (State.fieldsOf_dutyCheck_of_due due read) rfl

theorem Performs.reports (h : Performs s o t) : Reports s o t := by
  cases h with
  | raised why => exact .fault rfl rfl (fun hc => (hc ▸ why).eq_fault_of_pwmWriteFailed) rfl
  | initRejected => exact .fault rfl rfl nofun rfl
  | dutyFired _ _ due _ read => exact .own nofun (traceWords_dutyFired due read)
  | dutyWriteFailed _ _ due _ read =>
    exact .both rfl rfl rfl (by rw [traceWords_raise, traceWords_dutyFired due read]; rfl)
  | modeFired _ _ due => exact .own nofun (traceWords_trace_fieldsOf (if_pos due) rfl)
  | dutyPassed _ _ notDue | modePassed _ _ notDue => exact .own nofun (traceWords_trace_fieldsOf (if_neg notDue) rfl)
  | iterYields _ _ follows =>
    exact .own nofun (traceWords_trace_fieldsOf (congrArg (Instr.iterEnd · s.mode) (decide_eq_true follows)) rfl)
  | iterRepeats _ _ goesOn =>
    exact .own nofun (traceWords_trace_fieldsOf (congrArg (Instr.iterEnd · s.mode) (decide_eq_false goesOn)) rfl)
  | filled hp =>
    refine .own ?_ rfl
    simp only [State.filled, State.trace_phase, hp]
    split <;> nofun
  | signalPolled hp | pulseEnded hp | pulseStarted hp => exact .own (fun hf => absurd (hp.symm.trans hf) nofun) rfl
  | _ => exact .own nofun rfl

/-- Every operation closes its step with a trace word. -/
theorem Performs.getLast?_out (h : Performs s o t) : ∃ w, t.out.getLast? = some (.trace w) := by
  obtain ⟨u, i, rfl⟩ : ∃ u i, t = State.trace u i := by
    cases h <;> exact ⟨_, _, rfl⟩
  exact ⟨encode i, by rw [State.trace_out, List.getLast?_concat]⟩

/-- A reserved phase raises ILLEGAL_STATE (R160). -/
theorem step_of_nextOp_eq_fault (hr : s.inputs.rst = false) (hn : s.nextOp = some .fault) :
    step s = .next (s.tick.raise .illegalState) := by
  have hp : s.phase ≠ .fault := fun hp => by simp [State.nextOp_eq_none.mpr hp] at hn
  have hsel : s.selected = some (.fault s.mode FaultCode.illegalState.val) := by
    rw [State.selected, if_neg (Bool.eq_false_iff.mp hr), hn]
    rfl
  simp only [step, hsel, exec, execFault, if_neg hp]
  rfl

/-- A step performs the selected operation; as the operation FAULT it raises ILLEGAL_STATE and no other cause. -/
theorem performs_of_selected {i : Instr} (hsel : s.selected = some i) (h : step s = .next t) :
    ∃ o, i = s.fieldsOf o ∧ Performs s o t ∧ (o = .fault → t = s.tick.raise .illegalState) := by
  unfold State.selected at hsel
  obtain ⟨hr, rfl⟩ | ⟨hr, hp, -⟩ | ⟨hr, o, hn, hs⟩ := step_performs h
  · rw [if_pos hr] at hsel
    cases hsel
    exact ⟨.reset, rfl, .reset, nofun⟩
  · rw [if_neg (Bool.eq_false_iff.mp hr), State.nextOp_eq_none.mpr hp] at hsel
    cases hsel
  · rw [if_neg (Bool.eq_false_iff.mp hr), hn] at hsel
    cases hsel
    refine ⟨o, rfl, hs, ?_⟩
    rintro rfl
    rw [step_of_nextOp_eq_fault hr hn] at h
    cases h
    rfl

theorem FaultCode.code_eq_five_iff {c : FaultCode} : c.code = 5 ↔ c = .pwmWriteFailed := by
  cases c <;> decide

theorem encode_fault_eq_packWord (md : ModeNo) (c : FaultCode) :
    encode (.fault md c.val) = packWord 0xF#4 0 md 0 (c.code.setWidth 8) := by
  cases c <;> rfl

end

/-- Settles O8: an operation reports itself in one of three ways, and the one cause that may come with two words is
that of a failed write, which no operation raises before its effects. -/
theorem oneTraceWordPerStep : Obligations.OneTraceWordPerStep := by
  intro s t i hsel hstep
  obtain ⟨o, rfl, hs, hillegal⟩ := performs_of_selected hsel hstep
  refine ⟨hs.getLast?_out, ?_, ?_⟩
  · intro hphase
    cases hs.reports with
    | own _ words => exact words
    | fault stops | both stops => exact absurd stops hphase
  · intro hphase
    cases hs.reports with
    | own goesOn => exact absurd hphase goesOn
    | @fault c _ code early words =>
      rw [code, ← encode_fault_eq_packWord]
      refine ⟨fun _ => words, fun hfive => ?_⟩
      have hcode : t.faultCode = FaultCode.illegalState.code := by
        rw [hillegal (early (FaultCode.code_eq_five_iff.mp hfive))]
        rfl
      exact absurd (hcode.symm.trans (code.trans hfive)) (by decide)
    | both _ code duty words =>
      rw [code, ← encode_fault_eq_packWord, s.fieldsOf_op]
      exact ⟨fun hne => absurd rfl hne, fun _ => ⟨duty, words⟩⟩

/-! ## Every word is valid (R85) -/

/-- Every trace word among the events is valid under the `cfg`. -/
def WordsValid (c : Cfg) (es : List Event) : Prop := ∀ w ∈ traceWords es, ∃ i, verdict c w = .ok i

section
variable {s t : State} {o : Op} {c : Cfg}

theorem WordsValid.trace {i : Instr} (h : WordsValid c s.out) (hi : i.wellFormed c = true) :
    WordsValid c (s.trace i).out := by
  intro w hw
  rw [traceWords_trace, List.mem_append, List.mem_singleton] at hw
  obtain hw | rfl := hw
  · exact h w hw
  · exact ⟨i, verdict_eq_ok_iff.mpr ⟨rfl, hi⟩⟩

theorem FaultCode.wellFormed_fault (md : ModeNo) (k : FaultCode) : (Instr.fault md k.val).wellFormed c = true := by
  cases k <;> simp [Instr.wellFormed, Instr.CodeOk, FaultCode.val, FaultCode.number]

theorem WordsValid.raise (h : WordsValid c s.out) (k : FaultCode) : WordsValid c (s.raise k).out :=
  h.trace (s := { s with faultCode := k.code, phase := .fault }) (k.wellFormed_fault s.mode)

/-- The fields of a DUTY_CHECK that fires are the cursor and an entry of the table. -/
theorem Running.wordsValid_dutyFired {v : Byte} (h : Running s) (hread : s.memRead s.cursor = some v) :
    WordsValid s.cfg (s.dutyFired v).out := by
  rw [State.memRead, if_pos h.cursorBound] at hread
  obtain ⟨-, hb⟩ := h.tableBounds _ _ hread
  exact .trace nofun (decide_eq_true ⟨h.modeBound, h.cursorBound, hb⟩)

/-- A signal count fits the VAL field (R133). -/
theorem toNat_ofNat_signalCount (m : ModeNo) : (BitVec.ofNat 8 (signalCount m)).toNat = signalCount m := by
  rw [BitVec.toNat_ofNat, signalCount]
  omega

/-- In a signal the pulses to come are from 1 to M. -/
theorem Running.countOk (h : Running s) (hp : s.phase.inSignal = true) :
    Instr.CountOk s.cfg (s.seqRem.setWidth 8) := by
  obtain ⟨hstart, hsignal, -⟩ := h.sequenced.sequencerOk
  rw [Instr.CountOk, BitVec.toNat_setWidth_of_le (by decide)]
  refine ⟨?_, Nat.le_trans h.sequenced.seqRem_le h.modeBound⟩
  obtain hp | hp := Phase.inSignal_eq_true.mp hp
  · exact (hstart hp).2
  · exact (hsignal hp).2

/-- The end of an on-duration leaves one pulse fewer. -/
theorem Running.countLeftOk (h : Running s) (hp : s.phase = .signal) :
    Instr.CountLeftOk s.cfg ((s.seqRem - 1).setWidth 8) := by
  obtain ⟨hleft, hmost⟩ := h.countOk (by rw [hp]; rfl)
  rw [BitVec.toNat_setWidth_of_le (by decide)] at hleft hmost
  rw [Instr.CountLeftOk, BitVec.toNat_setWidth_of_le (by decide)]
  have hfewer : (s.seqRem - 1).toNat + 1 = s.seqRem.toNat := by bv_omega
  rwa [hfewer]

/-- In a pause the first pulse is over, so fewer than M are to come. -/
theorem Running.countBetweenOk (h : Running s) (hp : s.phase = .signal) (hoff : s.seqState ≠ .on) :
    Instr.CountBetweenOk s.cfg (s.seqRem.setWidth 8) := by
  obtain ⟨-, hsignal, -⟩ := h.sequenced.sequencerOk
  obtain ⟨-, -, hpause, -⟩ := h.sequenced.pulses
  obtain ⟨hstate, hleft⟩ := hsignal hp
  have hfewer : s.seqRem.toNat < signalCount s.mode := hpause hp (hstate.resolve_left hoff)
  rw [Instr.CountBetweenOk, BitVec.toNat_setWidth_of_le (by decide)]
  exact ⟨hleft, Nat.le_trans hfewer h.modeBound⟩

theorem Performs.wordsValid (hs : Performs s o t) (h : Inv s) : WordsValid s.cfg t.out := by
  cases hs with
  | raised => exact .raise (s := s.tick) nofun _
  | reset =>
    have hnone : WordsValid s.cfg [] := nofun
    exact hnone.trace (s := s.tick.restart) rfl
  | initRejected => exact .raise (s := s.configured) nofun _
  | initialized hp hv =>
    obtain ⟨-, -, ⟨hm, -⟩, -⟩ := hv
    rw [h.atInit hp]
    exact .trace nofun (decide_eq_true hm)
  | filled hp _ hb =>
    have hrun := h.running hp nofun nofun
    have hidx : s.fillIdx.toNat < s.cfg.n := hrun.placedAt hp
    exact .trace nofun (decide_eq_true ⟨hrun.modeBound, (Nat.mod_le _ _).trans_lt hidx, hb⟩)
  | started hp =>
    obtain ⟨-, -, ⟨hm, -⟩, -⟩ := (h.running hp nofun nofun).valid
    exact .trace nofun (decide_eq_true hm)
  | sampled hp | iterYields hp | iterRepeats hp | yielded hp =>
    exact .trace nofun (decide_eq_true (h.running hp nofun nofun).modeBound)
  | dutyFired hp _ _ _ read => exact (h.running hp nofun nofun).wordsValid_dutyFired read
  | dutyWriteFailed hp _ _ _ read => exact ((h.running hp nofun nofun).wordsValid_dutyFired read).raise _
  | dutyPassed hp => exact .trace nofun (decide_eq_true ⟨(h.running hp nofun nofun).modeBound, rfl, rfl⟩)
  | modeFired hp =>
    have hm : (advance s.cfg.m s.mode).toNat < s.cfg.m := ((h.running hp nofun nofun).modeFired hp).modeBound
    exact .trace nofun (decide_eq_true ⟨hm, toNat_ofNat_signalCount _⟩)
  | modePassed hp => exact .trace nofun (decide_eq_true ⟨(h.running hp nofun nofun).modeBound, rfl⟩)
  | signalStarted hp | signalPolled hp =>
    have hrun := h.running hp nofun nofun
    exact .trace nofun (decide_eq_true ⟨hrun.modeBound, hrun.countOk (by rw [hp]; rfl)⟩)
  | signalEnded hp | pulseEnded hp =>
    have hrun := h.running hp nofun nofun
    exact .trace nofun (decide_eq_true ⟨hrun.modeBound, hrun.countLeftOk hp⟩)
  | pulseStarted hp _ _ _ hoff =>
    have hrun := h.running hp nofun nofun
    exact .trace nofun (decide_eq_true ⟨hrun.modeBound, hrun.countBetweenOk hp hoff⟩)

end

/-- Settles O7: what an operation reports are registers that the invariant bounds, or what the operation itself has
checked, and the codes a fault reports are the six. -/
theorem emittedWordsAreValid : Obligations.EmittedWordsAreValid := by
  intro s t w h hstep hw
  suffices WordsValid s.cfg t.out from this w (mem_traceWords.mpr hw)
  obtain ⟨-, rfl⟩ | ⟨-, -, rfl⟩ | ⟨-, o, -, hs⟩ := step_performs hstep
  · exact Performs.reset.wordsValid h
  · exact nofun
  · exact hs.wordsValid h

end Sys2Proof.Machine
end

section
/-! PROOF. The converse of `exec_performs` for the operations that succeed: what `Performs` lists as a success is what
`exec` answers, and the step then reports it. -/

namespace Sys2Proof.Machine

section
variable {s t : State} {o : Op}

theorem Performs.nextOp_eq (h : Performs s o t) (ht : t.phase ≠ .fault) (ho : o ≠ .reset) : s.nextOp = some o := by
  cases h with
  | raised | initRejected | dutyWriteFailed => exact absurd rfl ht
  | reset => exact absurd rfl ho
  | signalPolled hp _ _ hrun => exact State.nextOp_eq_sigWait.mpr ⟨hp, hrun⟩
  | signalEnded hp _ _ hover hon | pulseEnded hp _ _ hover hon => exact State.nextOp_eq_sigOnEnd.mpr ⟨hp, hover, hon⟩
  | pulseStarted hp _ _ hover hoff => exact State.nextOp_eq_sigOffEnd.mpr ⟨hp, hover, hoff⟩
  | _ => exact (State.nextOp_eq_iff_home rfl).mpr ‹_›

theorem checked_of (body : Result) (hsel : s.nextOp = some o) (hwf : s.WF) :
    selectedOnly o s (checkWF s body) = body := by
  rw [selectedOnly_of _ hsel, checkWF_of _ hwf]

theorem sampled_of (body : Time → Result) (hsel : s.nextOp = some o) (hwf : s.WF) (hclk : s.ClockOk) :
    selectedOnly o s (checkWF s (withSample s body)) = body s.inputs.clk := by
  rw [checked_of _ hsel hwf, withSample_of _ hclk]

/-- What `Performs` lists as the success of an operation is what `exec` answers. -/
theorem Performs.exec_eq {i : Instr} (h : Performs s i.op t) (ht : t.phase ≠ .fault) (hi : i.op ≠ .reset) :
    exec i s = .next t := by
  have hsel := h.nextOp_eq ht hi
  cases i with
  | reset => exact absurd rfl hi
  | init =>
    cases h with
    | raised | initRejected => exact absurd rfl ht
    | initialized _ hvalid hok =>
      refine (selectedOnly_of _ hsel).trans ?_
      rw [if_pos hvalid]
      exact if_pos hok
  | fill =>
    cases h with
    | raised => exact absurd rfl ht
    | filled hp hwf hb =>
      have hlt : s.fillIdx.toNat < s.cfg.n := by
        obtain ⟨-, -, -, ⟨hfill, -⟩, -⟩ := hwf
        exact hfill hp
      refine (checked_of _ hsel hwf).trans ?_
      rw [State.memWrite, if_pos ⟨hlt, hb⟩]
      rfl
  | start =>
    cases h with
    | raised => exact absurd rfl ht
    | started _ hwf hclk hduty hmode => exact (sampled_of _ hsel hwf hclk).trans (unlessOverflow_of _ ⟨hduty, hmode⟩)
  | sample =>
    cases h with
    | raised => exact absurd rfl ht
    | sampled _ hwf hclk => exact sampled_of _ hsel hwf hclk
  | dutyCheck =>
    cases h with
    | raised | dutyWriteFailed => exact absurd rfl ht
    | dutyFired _ hwf hdue hfits hread hok =>
      refine (checked_of _ hsel hwf).trans ?_
      rw [if_pos hdue, unlessOverflow_of _ hfits, hread]
      exact congrArg _ (if_pos hok)
    | dutyPassed _ hwf hdue => exact (checked_of _ hsel hwf).trans (if_neg hdue)
  | modeCheck =>
    cases h with
    | raised => exact absurd rfl ht
    | modeFired _ hwf hdue hfits =>
      exact (checked_of _ hsel hwf).trans ((if_pos hdue).trans (unlessOverflow_of _ hfits))
    | modePassed _ hwf hdue => exact (checked_of _ hsel hwf).trans (if_neg hdue)
  | iterEnd =>
    cases h with
    | raised => exact absurd rfl ht
    | iterYields _ hwf hk => exact (checked_of _ hsel hwf).trans (if_pos hk)
    | iterRepeats _ hwf hk => exact (checked_of _ hsel hwf).trans (if_neg hk)
  | yield =>
    cases h with
    | raised => exact absurd rfl ht
    | yielded _ hwf => exact checked_of _ hsel hwf
  | sigStart =>
    cases h with
    | raised => exact absurd rfl ht
    | signalStarted _ hwf hclk hfits => exact (sampled_of _ hsel hwf hclk).trans (unlessOverflow_of _ hfits)
  | sigWait =>
    cases h with
    | raised => exact absurd rfl ht
    | signalPolled _ hwf hclk => exact sampled_of _ hsel hwf hclk
  | sigOnEnd =>
    cases h with
    | raised => exact absurd rfl ht
    | signalEnded _ hwf hclk _ _ hlast =>
      exact (sampled_of _ hsel hwf hclk).trans ((unlessOverflow_of _ (absurd hlast)).trans (if_pos hlast))
    | pulseEnded _ hwf hclk _ _ hmore hfits =>
      exact (sampled_of _ hsel hwf hclk).trans ((unlessOverflow_of _ fun _ => hfits).trans (if_neg hmore))
  | sigOffEnd =>
    cases h with
    | raised => exact absurd rfl ht
    | pulseStarted _ hwf hclk _ _ hfits => exact (sampled_of _ hsel hwf hclk).trans (unlessOverflow_of _ hfits)
  | fault =>
    cases h
    exact absurd rfl ht

/-- The step from `s` performs `i` and reports it. -/
def PerformedNext (s : State) (i : Instr) : Prop :=
  ∃ t, step s = .next t ∧ t.out.getLast? = some (.trace (encode i))

/-- An operation that can succeed is performed, and reports what it traces. -/
theorem Performs.performedNext {i j : Instr} (h : Performs s o (t.trace j)) (hr : s.inputs.rst = false)
    (ho : o ≠ .reset) (ht : t.phase ≠ .fault) (hj : j = i) : PerformedNext s i := by
  have hsel : s.selected = some (s.fieldsOf o) := by
    rw [State.selected, if_neg (Bool.eq_false_iff.mp hr), h.nextOp_eq ht ho, Option.map_some]
  have hop := s.fieldsOf_op o
  refine ⟨t.trace j, ?_, by rw [State.trace_out, List.getLast?_concat, hj]⟩
  rw [step, hsel]
  exact Performs.exec_eq (hop.symm ▸ h) ht (hop.symm ▸ ho)

end
end Sys2Proof.Machine
end

section
/-! PROOF. The host's way to make an operation the next one (`State.withFetchWord`): the state it sets up is well
formed, selects the operation, holds its fields, and meets every condition under which the operation succeeds. -/

namespace Sys2Proof.Machine

/-! ## The parts of the state that is set up -/

theorem Memory.runsTo_entriesFrom (v : Byte) (lo count : Nat) :
    (entriesFrom v lo count).runsTo (lo + count) lo = true := by
  induction count generalizing lo with
  | zero => simp [entriesFrom, Memory.runsTo]
  | succ count ih =>
    have hrest := ih (lo + 1)
    rw [Nat.add_right_comm] at hrest
    simp [entriesFrom, Memory.runsTo, ← Nat.add_assoc, hrest]

theorem Memory.full_entriesFrom (v : Byte) (n : Nat) : (entriesFrom v 0 n).full n = true := by
  simpa [Memory.full] using Memory.runsTo_entriesFrom v 0 n

theorem Memory.read_entriesFrom {v : Byte} {lo count i : Nat} (h1 : lo ≤ i) (h2 : i < lo + count) :
    (entriesFrom v lo count).read i = some v := by
  induction count generalizing lo with
  | zero => omega
  | succ count ih =>
    rw [entriesFrom, Memory.read]
    split
    · rfl
    · exact ih (by omega) (by omega)

theorem modeOf_of {c : Cfg} {md : ModeNo} (h : Instr.ModeOk c md) : modeOf c md = md := if_pos h

theorem indexOf_of {c : Cfg} {i : Index} (h : Instr.IndexOk c i) : indexOf c i = i := if_pos h

theorem tableValue_of {c : Cfg} {v : Byte} (h : Instr.ValueOk c v) : tableValue c v = v := if_pos h

theorem toNat_countOf {c : Cfg} {v : Nat} (h : 1 ≤ v ∧ v ≤ c.m) (hm : c.m ≤ 8) : (countOf c v).toNat = v := by
  rw [countOf, if_pos h, BitVec.toNat_ofNat]
  exact Nat.mod_eq_of_lt (by omega)

/-- The mode before `md` in the cycle of `m` modes, which `State.poised` sets up for a MODE_CHECK that fires. -/
def predMode (m : Nat) (md : ModeNo) : ModeNo := BitVec.ofNat 3 ((md.toNat + (m - 1)) % m)

theorem predMode_toNat {m : Nat} (md : ModeNo) (h1 : 1 ≤ m) (h8 : m ≤ 8) :
    (predMode m md).toNat = (md.toNat + (m - 1)) % m := by
  have := Nat.mod_lt (md.toNat + (m - 1)) (show m > 0 by omega)
  rw [predMode, BitVec.toNat_ofNat]
  exact Nat.mod_eq_of_lt (by omega)

theorem advance_predMode {m : Nat} {md : ModeNo} (h : md.toNat < m) (h8 : m ≤ 8) : advance m (predMode m md) = md := by
  have h1 : 1 ≤ m := Nat.one_le_of_lt h
  apply BitVec.eq_of_toNat_eq
  calc (advance m (predMode m md)).toNat
    _ = (md.toNat + (m - 1) + 1) % m := by rw [advance_toNat _ h1 h8, predMode_toNat _ h1 h8, Nat.mod_add_mod]
    _ = (md.toNat + m) % m := by rw [Nat.add_assoc, Nat.sub_add_cancel h1]
    _ = md.toNat := by rw [Nat.add_mod_right, Nat.mod_eq_of_lt h]

/-- From the time 0 no duration overflows. -/
theorem fitsTime_zero {d : Nat} (h : d ≤ maxDuration) : FitsTime 0 d := by
  have hsum : (0 : Time).toNat + d = d := Nat.zero_add d
  rw [FitsTime, hsum]
  exact Nat.le_trans h (by decide)

/-! ### What a valid `cfg` bounds (R101) -/

theorem one_le_of_valid {c : Cfg} (hv : Valid c) : 1 ≤ c.n ∧ 1 ≤ c.m ∧ 1 ≤ c.k := by
  obtain ⟨⟨hn, -⟩, -, ⟨hm, -⟩, -, -, -, -, hk, -⟩ := hv
  exact ⟨hn, hm, hk⟩

theorem modes_le_of_valid {c : Cfg} (hv : Valid c) : c.m ≤ 8 := by
  obtain ⟨-, -, ⟨-, hm, -⟩, -⟩ := hv
  exact hm

theorem fitsTime_of_valid {c : Cfg} (hv : Valid c) :
    FitsTime 0 c.msi ∧ FitsTime 0 c.tOn ∧ FitsTime 0 c.tOff ∧ FitsTime 0 c.dOff ∧ FitsTime 0 c.mOff := by
  obtain ⟨-, -, -, -, ⟨⟨-, hmsi⟩, ⟨-, hon⟩, -, hoff⟩, ⟨hduty, hmode⟩, -⟩ := hv
  exact ⟨fitsTime_zero hmsi, fitsTime_zero hon, fitsTime_zero hoff, fitsTime_zero hduty, fitsTime_zero hmode⟩

theorem fitsTime_interval {c : Cfg} (hv : Valid c) (m : ModeNo) : FitsTime 0 (interval c m) := by
  obtain ⟨-, -, -, hinterval, -⟩ := hv
  refine fitsTime_zero ?_
  rw [interval, List.getD_eq_getElem?_getD]
  cases h : c.interval[m.toNat]? with
  | none => exact Nat.zero_le _
  | some x => exact (hinterval x (List.mem_of_getElem? h)).2

theorem not_one_le_zero : ¬(1 : Time) ≤ 0 := by decide

theorem modeOf_lt {c : Cfg} (hv : Valid c) (md : ModeNo) : (modeOf c md).toNat < c.m := by
  obtain ⟨-, hm, -⟩ := one_le_of_valid hv
  unfold modeOf
  split
  · assumption
  · exact hm

theorem toNat_ofNat_n {c : Cfg} (hv : Valid c) : (BitVec.ofNat 17 c.n).toNat = c.n := by
  obtain ⟨⟨-, hn⟩, -⟩ := hv
  rw [BitVec.toNat_ofNat]
  exact Nat.mod_eq_of_lt (by omega)

theorem toNat_ofNat_pred_k {c : Cfg} (hv : Valid c) : (BitVec.ofNat 32 (c.k - 1)).toNat + 1 = c.k := by
  obtain ⟨-, -, -, -, -, -, -, hk1, hk⟩ := hv
  have hk : c.k ≤ 2 ^ 32 - 1 := hk
  rw [BitVec.toNat_ofNat, Nat.mod_eq_of_lt (by omega), Nat.sub_add_cancel hk1]

theorem countOf_bounds {c : Cfg} {v : Nat} (hv : Valid c) (h : 1 ≤ v ∧ v ≤ c.m) :
    1 ≤ (countOf c v).toNat ∧ (countOf c v).toNat ≤ c.m := by
  rwa [toNat_countOf h (modes_le_of_valid hv)]

theorem setWidth_countOf {c : Cfg} {val : Byte} (hv : Valid c) (h : Instr.CountOk c val) :
    (countOf c val.toNat).setWidth 8 = val := by
  apply BitVec.eq_of_toNat_eq
  rw [BitVec.toNat_setWidth_of_le (by decide), toNat_countOf h (modes_le_of_valid hv)]

theorem setWidth_countOf_succ {c : Cfg} {val : Byte} (hv : Valid c) (h : Instr.CountLeftOk c val) :
    (countOf c (val.toNat + 1) - 1).setWidth 8 = val := by
  have hcount := toNat_countOf ⟨Nat.le_add_left 1 _, h⟩ (modes_le_of_valid hv)
  apply BitVec.eq_of_toNat_eq
  rw [BitVec.toNat_setWidth_of_le (by decide)]
  bv_omega

/-! ## The state is well formed -/

section
variable {s : State}

/-- Well-formedness outside INIT and FAULT, from what the phase asks of each register (R46). -/
theorem State.wf_of_admits (hv : Valid s.cfg) (hmode : s.mode.toNat < s.cfg.m) (hcursor : s.cursor.toNat < s.cfg.n)
    (hcnt : s.iterCnt.toNat < s.cfg.k) (hplaced : s.phase.Admits s.fillIdx.toNat s.cfg.n)
    (hfull : s.phase.inLoop = true → s.table.full s.cfg.n = true) (hrem : s.seqRem.toNat ≤ s.cfg.m)
    (hstate : s.seqState ≠ .reserved) (hseq : s.SequencerOk) (htime : s.tIter ≤ s.tLast) (hfault : NoFault s) :
    s.WF := by
  obtain ⟨hlegal, -, hf⟩ := hplaced.between
  have hloop (hp : s.phase.inLoop = true) : s.fillIdx.toNat = s.cfg.n :=
    hplaced.eq fun hfill => by simp [hfill, Phase.inLoop] at hp
  exact ⟨hv, hlegal, ⟨hmode, hcursor, hplaced.le, hcnt, hstate, hrem⟩,
    ⟨fun hp => by rwa [hp] at hplaced, fun hp => by rwa [hp] at hplaced, fun hp => ⟨hloop hp, hfull hp⟩⟩,
    hseq, htime, iff_of_false hf (not_not_intro hfault)⟩

/-- A state with a full table and a resting sequencer, whatever its mode, cursor and cadence in their ranges. -/
theorem State.wf_readied {p : Phase} {md m : ModeNo} {v : Byte} {i : Index} {cnt : BitVec 32} {nd nm : Time}
    (hv : Valid s.cfg) (hp : p = .start ∨ p.inLoop = true ∧ p.inSignal = false) (hm : m.toNat < s.cfg.m)
    (hi : i.toNat < s.cfg.n) (hcnt : cnt.toNat < s.cfg.k) :
    State.WF { s.readied p md v with mode := m, cursor := i, iterCnt := cnt, nextDuty := nd, nextMode := nm } := by
  have hrest : p.inSignal = false := by
    obtain rfl | ⟨-, hp⟩ := hp
    · rfl
    · exact hp
  have hplaced : p.Admits (BitVec.ofNat 17 s.cfg.n).toNat s.cfg.n := by
    rw [toNat_ofNat_n hv]
    cases p <;> simp_all [Phase.Admits, Phase.inLoop]
  obtain ⟨hstart, hsignal⟩ := Phase.inSignal_eq_false.mp hrest
  exact State.wf_of_admits hv hm hi hcnt hplaced (fun _ => Memory.full_entriesFrom _ _) (Nat.zero_le _) nofun
    ⟨fun h => absurd h hstart, fun h => absurd h hsignal, fun _ => rfl⟩ (BitVec.le_refl _) rfl

/-- A state with a full table in which a signal is armed or running. -/
theorem State.wf_readied_signal {p : Phase} {md : ModeNo} {v : Byte} {q : SeqState} {rem : BitVec 4} {e : Time}
    (hv : Valid s.cfg) (hp : p = .sigStart ∧ q = .idle ∨ p = .signal ∧ (q = .on ∨ q = .off))
    (hrem : 1 ≤ rem.toNat ∧ rem.toNat ≤ s.cfg.m) :
    State.WF { s.readied p md v with seqState := q, seqRem := rem, seqEnd := e } := by
  obtain ⟨hn, -, hk⟩ := one_le_of_valid hv
  have hmode := modeOf_lt hv md
  have hfill : (BitVec.ofNat 17 s.cfg.n).toNat = s.cfg.n := toNat_ofNat_n hv
  have hfull := Memory.full_entriesFrom (tableValue s.cfg v) s.cfg.n
  obtain ⟨rfl, rfl⟩ | ⟨rfl, hq⟩ := hp
  · exact State.wf_of_admits hv hmode hn hk hfill (fun _ => hfull) hrem.2 nofun
      ⟨fun _ => ⟨rfl, hrem.1⟩, nofun, nofun⟩ (BitVec.le_refl _) rfl
  · exact State.wf_of_admits hv hmode hn hk hfill (fun _ => hfull) hrem.2 (by obtain rfl | rfl := hq <;> nofun)
      ⟨nofun, fun _ => ⟨hq, hrem.1⟩, nofun⟩ (BitVec.le_refl _) rfl

/-! ## Every operation is performed in the state set up for it -/

theorem performedNext_reset : PerformedNext (s.poised .reset) .reset := ⟨_, rfl, rfl⟩

theorem performedNext_init {md : ModeNo} (hv : Valid s.cfg) : PerformedNext (s.poised (.init md)) (.init md) :=
  Performs.performedNext (.initialized rfl hv rfl) rfl nofun nofun rfl

theorem performedNext_fill {md : ModeNo} {idx : Index} {val : Byte} (hv : Valid s.cfg)
    (hi : (Instr.fill md idx val).wellFormed s.cfg = true) :
    PerformedNext (s.poised (.fill md idx val)) (.fill md idx val) := by
  obtain ⟨hmode, hidx, hval⟩ := of_decide_eq_true hi
  obtain ⟨hn, -, hk⟩ := one_le_of_valid hv
  have hfill : ((indexOf s.cfg idx).setWidth 17).toNat < s.cfg.n := by
    rwa [indexOf_of hidx, BitVec.toNat_setWidth_of_le (by decide)]
  have hwf : (s.poised (.fill md idx val)).WF :=
    State.wf_of_admits hv (modeOf_lt hv md) hn hk hfill nofun (Nat.zero_le _) nofun ⟨nofun, nofun, fun _ => rfl⟩
      (BitVec.le_refl _) rfl
  have hbounds : Instr.ValueOk s.cfg (tableValue s.cfg val) := by rwa [tableValue_of hval]
  refine Performs.performedNext (.filled rfl hwf hbounds) rfl nofun ?_ ?_
  · change (if _ then Phase.start else .fill) ≠ .fault
    split <;> nofun
  · change Instr.fill (modeOf s.cfg md) (((indexOf s.cfg idx).setWidth 17).setWidth 16) (tableValue s.cfg val) = _
    rw [modeOf_of hmode, indexOf_of hidx, tableValue_of hval, BitVec.setWidth_setWidth_of_le _ (by decide),
      BitVec.setWidth_eq]

theorem performedNext_start (hv : Valid s.cfg) : PerformedNext (s.poised .start) .start := by
  obtain ⟨hn, -, hk⟩ := one_le_of_valid hv
  obtain ⟨-, -, -, hduty, hmode⟩ := fitsTime_of_valid hv
  have hwf : (s.poised .start).WF := State.wf_readied hv (.inl rfl) (modeOf_lt hv 0) hn hk
  exact Performs.performedNext (.started rfl hwf (BitVec.le_refl _) hduty hmode) rfl nofun nofun rfl

theorem performedNext_sample {md : ModeNo} (hv : Valid s.cfg) (hi : (Instr.sample md).wellFormed s.cfg = true) :
    PerformedNext (s.poised (.sample md)) (.sample md) := by
  obtain ⟨hn, -, hk⟩ := one_le_of_valid hv
  have hwf : (s.poised (.sample md)).WF := State.wf_readied hv (.inr ⟨rfl, rfl⟩) (modeOf_lt hv md) hn hk
  exact Performs.performedNext (.sampled rfl hwf (BitVec.le_refl _)) rfl nofun nofun
    (congrArg Instr.sample (modeOf_of (of_decide_eq_true hi)))

theorem performedNext_dutyCheck {f : Bool} {md : ModeNo} {idx : Index} {val : Byte} (hv : Valid s.cfg)
    (hi : (Instr.dutyCheck f md idx val).wellFormed s.cfg = true) :
    PerformedNext (s.poised (.dutyCheck f md idx val)) (.dutyCheck f md idx val) := by
  obtain ⟨hmode, hduty⟩ := of_decide_eq_true hi
  obtain ⟨hn, -, hk⟩ := one_le_of_valid hv
  cases f with
  | true =>
    obtain ⟨hidx, hval⟩ := hduty
    have hcursor : (indexOf s.cfg idx).toNat < s.cfg.n := by rwa [indexOf_of hidx]
    have hwf : (s.poised (.dutyCheck true md idx val)).WF :=
      State.wf_readied hv (.inr ⟨rfl, rfl⟩) (modeOf_lt hv md) hcursor hk
    have hread : (s.poised (.dutyCheck true md idx val)).memRead (indexOf s.cfg idx) = some (tableValue s.cfg val) :=
      (if_pos hcursor).trans (Memory.read_entriesFrom (Nat.zero_le _) (by rwa [Nat.zero_add]))
    refine Performs.performedNext (.dutyFired rfl hwf (BitVec.le_refl _) (fitsTime_interval hv _) hread rfl) rfl nofun
      nofun ?_
    change Instr.dutyCheck true (modeOf s.cfg md) (indexOf s.cfg idx) (tableValue s.cfg val) = _
    rw [modeOf_of hmode, indexOf_of hidx, tableValue_of hval]
  | false =>
    obtain ⟨rfl, rfl⟩ := hduty
    have hwf : (s.poised (.dutyCheck false md 0 0)).WF :=
      State.wf_readied hv (.inr ⟨rfl, rfl⟩) (modeOf_lt hv md) hn hk
    exact Performs.performedNext (.dutyPassed rfl hwf not_one_le_zero) rfl nofun nofun
      (congrArg (Instr.dutyCheck false · 0 0) (modeOf_of hmode))

theorem performedNext_modeCheck {f : Bool} {md : ModeNo} {val : Byte} (hv : Valid s.cfg)
    (hi : (Instr.modeCheck f md val).wellFormed s.cfg = true) :
    PerformedNext (s.poised (.modeCheck f md val)) (.modeCheck f md val) := by
  obtain ⟨hmode, hsignal⟩ := of_decide_eq_true hi
  obtain ⟨hn, hm, hk⟩ := one_le_of_valid hv
  cases f with
  | true =>
    have h8 := modes_le_of_valid hv
    have hpred : (predMode s.cfg.m (modeOf s.cfg md)).toNat < s.cfg.m := by
      rw [predMode_toNat _ hm h8]
      exact Nat.mod_lt _ hm
    have hwf : (s.poised (.modeCheck true md val)).WF := State.wf_readied hv (.inr ⟨rfl, rfl⟩) hpred hn hk
    have hcount : BitVec.ofNat 8 (signalCount md) = val :=
      BitVec.eq_of_toNat_eq ((toNat_ofNat_signalCount md).trans (Eq.symm hsignal))
    obtain ⟨hmsi, -⟩ := fitsTime_of_valid hv
    have hadvance : advance s.cfg.m (predMode s.cfg.m (modeOf s.cfg md)) = md := by
      rw [modeOf_of hmode, advance_predMode hmode h8]
    refine Performs.performedNext (.modeFired rfl hwf (BitVec.le_refl _) hmsi) rfl nofun nofun ?_
    change Instr.modeCheck true (advance s.cfg.m (predMode s.cfg.m (modeOf s.cfg md)))
      (BitVec.ofNat 8 (signalCount (advance s.cfg.m (predMode s.cfg.m (modeOf s.cfg md))))) = _
    rw [hadvance, hcount]
  | false =>
    obtain rfl := hsignal
    have hwf : (s.poised (.modeCheck false md 0)).WF :=
      State.wf_readied hv (.inr ⟨rfl, rfl⟩) (modeOf_lt hv md) hn hk
    exact Performs.performedNext (.modePassed rfl hwf not_one_le_zero) rfl nofun nofun
      (congrArg (Instr.modeCheck false · 0) (modeOf_of hmode))

theorem performedNext_iterEnd {f : Bool} {md : ModeNo} (hv : Valid s.cfg)
    (hi : (Instr.iterEnd f md).wellFormed s.cfg = true) (hk2 : f = false → 2 ≤ s.cfg.k) :
    PerformedNext (s.poised (.iterEnd f md)) (.iterEnd f md) := by
  have hmode := modeOf_of (of_decide_eq_true hi)
  obtain ⟨hn, -, hk⟩ := one_le_of_valid hv
  cases f with
  | true =>
    have hcnt : (BitVec.ofNat 32 (s.cfg.k - 1)).toNat + 1 = s.cfg.k := toNat_ofNat_pred_k hv
    have hwf : (s.poised (.iterEnd true md)).WF :=
      State.wf_readied hv (.inr ⟨rfl, rfl⟩) (modeOf_lt hv md) hn (Nat.le_of_eq hcnt)
    exact Performs.performedNext (.iterYields rfl hwf hcnt) rfl nofun nofun (congrArg (Instr.iterEnd true) hmode)
  | false =>
    have hwf : (s.poised (.iterEnd false md)).WF :=
      State.wf_readied hv (.inr ⟨rfl, rfl⟩) (modeOf_lt hv md) hn hk
    exact Performs.performedNext (.iterRepeats rfl hwf (Nat.ne_of_lt (hk2 rfl))) rfl nofun nofun
      (congrArg (Instr.iterEnd false) hmode)

theorem performedNext_yield {md : ModeNo} (hv : Valid s.cfg) (hi : (Instr.yield md).wellFormed s.cfg = true) :
    PerformedNext (s.poised (.yield md)) (.yield md) := by
  obtain ⟨hn, -, hk⟩ := one_le_of_valid hv
  have hwf : (s.poised (.yield md)).WF := State.wf_readied hv (.inr ⟨rfl, rfl⟩) (modeOf_lt hv md) hn hk
  exact Performs.performedNext (.yielded rfl hwf) rfl nofun nofun
    (congrArg Instr.yield (modeOf_of (of_decide_eq_true hi)))

theorem performedNext_sigStart {md : ModeNo} {val : Byte} (hv : Valid s.cfg)
    (hi : (Instr.sigStart md val).wellFormed s.cfg = true) :
    PerformedNext (s.poised (.sigStart md val)) (.sigStart md val) := by
  obtain ⟨hmode, hcount⟩ := of_decide_eq_true hi
  have hwf : (s.poised (.sigStart md val)).WF := State.wf_readied_signal hv (.inl ⟨rfl, rfl⟩) (countOf_bounds hv hcount)
  obtain ⟨-, hon, -⟩ := fitsTime_of_valid hv
  exact Performs.performedNext (.signalStarted rfl hwf (BitVec.le_refl _) hon) rfl nofun nofun
    (congr (congrArg Instr.sigStart (modeOf_of hmode)) (setWidth_countOf hv hcount))

theorem performedNext_sigWait {f : Bool} {md : ModeNo} {val : Byte} (hv : Valid s.cfg)
    (hi : (Instr.sigWait f md val).wellFormed s.cfg = true) :
    PerformedNext (s.poised (.sigWait f md val)) (.sigWait f md val) := by
  obtain ⟨hmode, hcount⟩ := of_decide_eq_true hi
  have hstate : (if f then SeqState.on else .off) = .on ∨ (if f then SeqState.on else .off) = .off := by
    cases f <;> decide
  have hwf : (s.poised (.sigWait f md val)).WF :=
    State.wf_readied_signal hv (.inr ⟨rfl, hstate⟩) (countOf_bounds hv hcount)
  have hrunning : (0 : Time) < 1 := by decide
  refine Performs.performedNext (.signalPolled rfl hwf (BitVec.le_refl _) hrunning) rfl nofun nofun ?_
  change Instr.sigWait ((if f then SeqState.on else .off) == .on) (modeOf s.cfg md)
    ((countOf s.cfg val.toNat).setWidth 8) = _
  rw [modeOf_of hmode, setWidth_countOf hv hcount]
  cases f <;> rfl

theorem performedNext_sigOnEnd {md : ModeNo} {val : Byte} (hv : Valid s.cfg)
    (hi : (Instr.sigOnEnd md val).wellFormed s.cfg = true) :
    PerformedNext (s.poised (.sigOnEnd md val)) (.sigOnEnd md val) := by
  obtain ⟨hmode, hcount⟩ := of_decide_eq_true hi
  have hwf : (s.poised (.sigOnEnd md val)).WF :=
    State.wf_readied_signal hv (.inr ⟨rfl, .inl rfl⟩) (countOf_bounds hv ⟨Nat.le_add_left 1 _, hcount⟩)
  have hword :
      Instr.sigOnEnd (modeOf s.cfg md) ((countOf s.cfg (val.toNat + 1) - 1).setWidth 8) = .sigOnEnd md val := by
    rw [modeOf_of hmode, setWidth_countOf_succ hv hcount]
  obtain ⟨-, -, hoff, -⟩ := fitsTime_of_valid hv
  have hreached : ¬(0 : Time) < 0 := BitVec.lt_irrefl 0
  by_cases hlast : countOf s.cfg (val.toNat + 1) - 1 = 0
  · exact Performs.performedNext (.signalEnded rfl hwf (BitVec.le_refl _) hreached rfl hlast) rfl nofun nofun hword
  · exact Performs.performedNext (.pulseEnded rfl hwf (BitVec.le_refl _) hreached rfl hlast hoff) rfl nofun nofun hword

theorem performedNext_sigOffEnd {md : ModeNo} {val : Byte} (hv : Valid s.cfg)
    (hi : (Instr.sigOffEnd md val).wellFormed s.cfg = true) :
    PerformedNext (s.poised (.sigOffEnd md val)) (.sigOffEnd md val) := by
  obtain ⟨hmode, hleft, hfewer⟩ := of_decide_eq_true hi
  have hcount : Instr.CountOk s.cfg val := ⟨hleft, Nat.le_of_succ_le hfewer⟩
  have hwf : (s.poised (.sigOffEnd md val)).WF :=
    State.wf_readied_signal hv (.inr ⟨rfl, .inr rfl⟩) (countOf_bounds hv hcount)
  obtain ⟨-, hon, -⟩ := fitsTime_of_valid hv
  exact Performs.performedNext (.pulseStarted rfl hwf (BitVec.le_refl _) (BitVec.lt_irrefl _) nofun hon) rfl nofun nofun
    (congr (congrArg Instr.sigOffEnd (modeOf_of hmode)) (setWidth_countOf hv hcount))

theorem performedNext_poised {i : Instr} (hv : Valid s.cfg) (hi : i.wellFormed s.cfg = true) (hfault : i.op ≠ .fault)
    (hk : ∀ md, i = .iterEnd false md → 2 ≤ s.cfg.k) : PerformedNext (s.poised i) i := by
  cases i with
  | reset => exact performedNext_reset
  | init => exact performedNext_init hv
  | fill => exact performedNext_fill hv hi
  | start => exact performedNext_start hv
  | sample => exact performedNext_sample hv hi
  | dutyCheck => exact performedNext_dutyCheck hv hi
  | modeCheck => exact performedNext_modeCheck hv hi
  | iterEnd f md => exact performedNext_iterEnd hv hi fun hf => hk md (hf ▸ rfl)
  | yield => exact performedNext_yield hv hi
  | sigStart => exact performedNext_sigStart hv hi
  | sigWait => exact performedNext_sigWait hv hi
  | sigOnEnd => exact performedNext_sigOnEnd hv hi
  | sigOffEnd => exact performedNext_sigOffEnd hv hi
  | fault => exact absurd rfl hfault

theorem withFetchWord_encode (s : State) (i : Instr) : s.withFetchWord 32 (encode i).toNat = s.poised i := by
  have hlt := (encode i).isLt
  have hdecode : decodeTableWord 32 (encode i).toNat = some i := by
    rw [decodeTableWord, Nat.mod_eq_of_lt hlt, if_pos hlt, BitVec.ofNat_toNat, BitVec.setWidth_eq, encodeThenDecode]
    rfl
  rw [State.withFetchWord, hdecode]

end

/-- Settles O11: the word decodes to its operation, and the state set up for an operation performs it. -/
theorem withFetchWordIsPerformedNext : Obligations.WithFetchWordIsPerformedNext := by
  intro s i hv hi hfault hk
  rw [withFetchWord_encode]
  exact performedNext_poised hv hi hfault hk

end Sys2Proof.Machine
end

section
/-! PROOF. The table generator (spec/41_table_generator.md): what INIT, FILL and START answer, and the run from a reset
request to the update loop. -/

namespace Sys2Proof.Machine

/-! ## The checks that fail -/

section
variable {s : State} {o : Op}

theorem checked_of_not_wf (body : Result) (hsel : s.nextOp = some o) (hwf : ¬s.WF) :
    selectedOnly o s (checkWF s body) = .next (faultedWith s 6 []) :=
  (selectedOnly_of _ hsel).trans (if_neg hwf)

theorem sampled_of_backward (body : Time → Result) (hsel : s.nextOp = some o) (hwf : s.WF) (hback : ¬s.ClockOk) :
    selectedOnly o s (checkWF s (withSample s body)) = .next (faultedWith s 3 []) :=
  (checked_of _ hsel hwf).trans (if_neg hback)

theorem unlessOverflow_of_not {fits : Prop} [Decidable fits] (body : Result) (h : ¬fits) :
    unlessOverflow s fits body = .next (faultedWith s 4 []) := if_neg h

theorem fitsTime_iff_lt {t : Time} {d : Nat} : FitsTime t d ↔ t.toNat + d < 2 ^ 64 := by
  rw [FitsTime, maxTime]
  omega

end

/-! ## The three operations -/

/-- Settles O13: the success is the case of `Performs`, and each of the two faults is the other branch of its check. -/
theorem initResult : Obligations.InitResult := by
  intro s md hp
  have hsel : s.nextOp = some .init := (State.nextOp_eq_iff_home rfl).mpr hp
  refine ⟨fun hvalid hok => ?_, fun hinvalid => ?_, fun hvalid hrejected => ?_⟩
  · exact Performs.exec_eq (i := .init md) (.initialized hp hvalid hok) nofun nofun
  · exact (selectedOnly_of _ hsel).trans (if_neg hinvalid)
  · exact (selectedOnly_of _ hsel).trans ((if_pos hvalid).trans (if_neg (Bool.eq_false_iff.mp hrejected)))

theorem State.filled_phase {s : State} (hp : s.phase = .fill) :
    s.filled.phase = if s.fillIdx.toNat + 1 = s.cfg.n then .start else .fill := hp ▸ rfl

theorem State.filled_phase_ne_fault {s : State} (hp : s.phase = .fill) : s.filled.phase ≠ .fault := by
  rw [State.filled_phase hp]
  split <;> nofun

theorem State.filled_read (s : State) (i : Nat) :
    s.filled.table.read i = if i = s.fillIdx.toNat then some s.inputs.entropy else s.table.read i :=
  Memory.read_write ..

theorem State.filled_out (s : State) :
    s.filled.out = [.trace (packWord 0x2#4 0 s.mode (s.fillIdx.setWidth 16) s.inputs.entropy)] := rfl

theorem State.filled_fillIdx_toNat {s : State} (h : s.fillIdx.toNat < 65536) :
    s.filled.fillIdx.toNat = s.fillIdx.toNat + 1 := by
  simp only [State.filled, State.trace_fillIdx, BitVec.toNat_ofNat]
  omega

/-- Settles O14: the success is the case of `Performs`, its phase read in phase FILL. -/
theorem fillResult : Obligations.FillResult := by
  intro s md idx val hp
  refine ⟨fun hwf hmin hmax => ?_, fun hwf => ?_⟩
  · have hexec : exec (.fill md idx val) s = .next s.filled :=
      Performs.exec_eq (.filled hp hwf ⟨hmin, hmax⟩) (State.filled_phase_ne_fault hp) nofun
    rw [hexec, ← State.filled_phase hp]
    rfl
  · exact checked_of_not_wf _ ((State.nextOp_eq_iff_home rfl).mpr hp) hwf

/-- Settles O16: the success is the case of `Performs`; the faults are the checks in their order. -/
theorem startResult : Obligations.StartResult := by
  intro s hp
  have hsel : s.nextOp = some .start := (State.nextOp_eq_iff_home rfl).mpr hp
  refine ⟨fun hwf hclk hduty hmode => ?_, fun hwf => ?_, fun hwf hback => ?_, fun hwf hclk hover => ?_⟩
  · exact Performs.exec_eq (i := .start)
      (.started hp hwf hclk (fitsTime_iff_lt.mpr hduty) (fitsTime_iff_lt.mpr hmode)) nofun nofun
  · exact checked_of_not_wf _ hsel hwf
  · exact sampled_of_backward _ hsel hwf (BitVec.not_le.mpr hback)
  · refine (sampled_of _ hsel hwf hclk).trans (unlessOverflow_of_not _ ?_)
    simp only [fitsTime_iff_lt]
    omega

/-! ## The table in the loop (R107) -/

theorem Running.table_read {s : State} {i : Nat} (h : Running s) (hp : s.phase ≠ .fill) (hi : i < s.cfg.n) :
    ∃ v, s.table.read i = some v ∧ s.cfg.min ≤ v.toNat ∧ v.toNat ≤ s.cfg.max := by
  obtain ⟨v, hv⟩ := Option.ne_none_iff_exists'.mp (h.tableFilled i (h.full hp ▸ hi))
  exact ⟨v, hv, (h.tableBounds i v hv).2⟩

/-- Settles O41: the next state has the invariant, and past FILL `fill_idx` is `N`. -/
theorem tableEntriesStayInBounds : Obligations.TableEntriesStayInBounds := by
  intro s t h hstep hloop i hi
  have leaves {p : Phase} (hp : p.inLoop = false) : t.phase ≠ p := by
    rintro rfl
    simp [hp] at hloop
  have hrun : Running t := (stepKeepsTheInvariant s t h hstep).running rfl (leaves rfl) (leaves rfl)
  exact hrun.table_read (leaves rfl) hi

/-! ## Steps and runs with the events they emit -/

section
variable {s t u : State}

theorem State.inputs_of_env {e : Inputs} {rest : List Inputs} (h : s.env = e :: rest) : s.inputs = e := by
  rw [State.inputs, h]

theorem step_of_request (h : s.inputs.rst = true) : step s = .next (s.tick.restart.trace .reset) := by
  rw [step, State.selected, if_pos h]
  rfl

/-- Without a reset request a step answers what `Performs` lists as a success. -/
theorem Performs.step_eq {o : Op} (h : Performs s o t) (hr : s.inputs.rst = false) (ho : o ≠ .reset)
    (ht : t.phase ≠ .fault) : step s = .next t := by
  have hop := s.fieldsOf_op o
  rw [step, State.selected, if_neg (Bool.eq_false_iff.mp hr), h.nextOp_eq ht ho]
  exact Performs.exec_eq (hop.symm ▸ h) ht (hop.symm ▸ ho)

/-- A run from `s` to `t` with the events `es`, one list per step. -/
def RunsTo (s : State) (es : List (List Event)) (t : State) : Prop :=
  after es.length s = .next t ∧ eventsOf es.length s = es

theorem RunsTo.refl (s : State) : RunsTo s [] s := ⟨rfl, rfl⟩

theorem RunsTo.of_length {es : List (List Event)} {k : Nat} (run : RunsTo s es t) (h : es.length = k) :
    after k s = .next t ∧ eventsOf k s = es := h ▸ run

theorem RunsTo.cons {es : List (List Event)} (h : step s = .next u) (run : RunsTo u es t) :
    RunsTo s (u.out :: es) t := by
  obtain ⟨hafter, hevents⟩ := run
  exact ⟨(after_succ_of_next h).trans hafter, (eventsOf_succ_of_next h).trans (congrArg _ hevents)⟩

theorem RunsTo.append {es es' : List (List Event)} (run : RunsTo s es u) (run' : RunsTo u es' t) :
    RunsTo s (es ++ es') t := by
  obtain ⟨hafter, hevents⟩ := after_add_of_next (k := es'.length) run.1
  rw [RunsTo, List.length_append, hafter, hevents, run.2, run'.2]
  exact ⟨run'.1, rfl⟩

end

/-! ## Booting (R100, R223) -/

/-- A boot under `c` after the FILLs that drew from `drawn`, with the inputs `coming` still to be read. -/
structure Booting (c : Cfg) (drawn coming : List Inputs) (s : State) : Prop where
  running : Running s
  cfg : s.cfg = c
  phase : s.phase = if drawn.length = c.n then .start else .fill
  fillIdx : s.fillIdx.toNat = drawn.length
  entries : ∀ i, s.table.read i = drawn[i]?.map Inputs.entropy
  env : s.env = coming
  mode : s.mode = 0
  tLast : s.tLast = 0
  dutyOut : s.dutyOut = none

/-- The events of the FILL that writes the draw `x` at the index `i`. -/
def fillEvents : Inputs × Nat → List Event
  | (x, i) => [.trace (packWord 0x2#4 0 0 (BitVec.ofNat 16 i) x.entropy)]

section
variable {c : Cfg} {s : State} {x e start : Inputs} {drawn draws coming : List Inputs}

/-- A reset request in any state and the INIT after it begin a boot with an empty table. -/
theorem booting_of_request {request : Inputs} (hv : Valid s.cfg) (henv : s.env = request :: e :: coming)
    (hrequest : request.rst = true) (hr : e.rst = false) (hok : e.cfgOk = true) :
    ∃ t, RunsTo s [[.trace (encode .reset)],
        [.pwmConfigure s.cfg.carrierFreq s.cfg.resolution, .indSet s.cfg.indPin (pinLevel s.cfg .off),
          .trace (encode (.init 0))]] t ∧
      Booting s.cfg [] coming t := by
  have hreset := step_of_request (State.inputs_of_env henv ▸ hrequest)
  have hinv := inv_reset s
  have hx : (s.tick.restart.trace .reset).inputs = e := State.inputs_of_env (congrArg List.tail henv)
  rw [← hx] at hr hok
  have hinit := Performs.step_eq (s := s.tick.restart.trace .reset) (.initialized rfl hv hok) hr nofun nofun
  obtain ⟨hn, -⟩ := one_le_of_valid hv
  exact ⟨_, ((RunsTo.refl _).cons hinit).cons hreset, {
    running := hinv.initialized rfl hv
    cfg := rfl
    phase := (if_neg (Nat.ne_of_lt hn)).symm
    fillIdx := rfl
    entries := fun _ => rfl
    env := congrArg (List.tail ∘ List.tail) henv
    mode := rfl
    tLast := rfl
    dutyOut := rfl }⟩

/-- One FILL takes the next draw into the table. -/
theorem Booting.filled (h : Booting c drawn (x :: coming) s) (hlt : drawn.length < c.n)
    (hb : c.min ≤ x.entropy.toNat ∧ x.entropy.toNat ≤ c.max) (hr : x.rst = false) :
    step s = .next s.filled ∧ s.filled.out = fillEvents (x, drawn.length) ∧
      Booting c (drawn ++ [x]) coming s.filled := by
  obtain ⟨hrun, rfl, hphase, hidx, hread, henv, hmode, hlast, hout⟩ := h
  have hx : s.inputs = x := State.inputs_of_env henv
  have hp : s.phase = .fill := hphase.trans (if_neg hlt.ne)
  have hb' : s.cfg.min ≤ s.inputs.entropy.toNat ∧ s.inputs.entropy.toNat ≤ s.cfg.max := hx.symm ▸ hb
  have hrun' : Running s.filled := hrun.filled hp hb'
  refine ⟨?_, ?_, ?_⟩
  · exact Performs.step_eq (.filled hp hrun.wf hb') (hx.symm ▸ hr) nofun (State.filled_phase_ne_fault hp)
  · rw [State.filled_out, fillEvents, hmode, hx, ← hidx, BitVec.ofNat_toNat]
  · obtain ⟨⟨-, hn⟩, -⟩ := hrun.valid
    exact {
      running := hrun'
      cfg := rfl
      phase := by rw [State.filled_phase hp, hidx, List.length_append, List.length_singleton]
      fillIdx := by
        rw [State.filled_fillIdx_toNat (by omega), hidx, List.length_append, List.length_singleton]
      entries := fun i => by
        rw [State.filled_read, hidx, hx, hread]
        split
        · subst i
          rw [List.getElem?_concat_length, Option.map_some]
        · grind
      env := congrArg List.tail henv
      mode := hmode
      tLast := hlast
      dutyOut := hout }

/-- The FILLs of a boot take all draws into the table, in order. -/
theorem Booting.fills (h : Booting c drawn (draws ++ coming) s) (hle : drawn.length + draws.length ≤ c.n)
    (hb : ∀ x ∈ draws, c.min ≤ x.entropy.toNat ∧ x.entropy.toNat ≤ c.max)
    (hr : ∀ x ∈ draws, x.rst = false) :
    ∃ t, RunsTo s ((draws.zipIdx drawn.length).map fillEvents) t ∧
      Booting c (drawn ++ draws) coming t := by
  induction draws generalizing drawn s with
  | nil => exact ⟨s, .refl s, by rwa [List.append_nil]⟩
  | cons x draws ih =>
    rw [List.length_cons] at hle
    obtain ⟨hbx, hb⟩ := List.forall_mem_cons.mp hb
    obtain ⟨hrx, hr⟩ := List.forall_mem_cons.mp hr
    obtain ⟨hstep, hout, hboot⟩ := h.filled (by omega) hbx hrx
    obtain ⟨t, hruns, hboot⟩ := ih hboot (by rw [List.length_append, List.length_singleton]; omega) hb hr
    refine ⟨t, ?_, by rwa [List.append_assoc] at hboot⟩
    rw [List.length_append, List.length_singleton] at hruns
    rw [List.zipIdx_cons, List.map_cons, ← hout]
    exact hruns.cons hstep

/-- START ends a boot whose draws are all in the table, and its deadlines are the exact sums. -/
theorem Booting.started (h : Booting c drawn (start :: coming) s) (hn : drawn.length = c.n) (hr : start.rst = false)
    (hduty : FitsTime start.clk c.dOff) (hmode : FitsTime start.clk c.mOff) :
    step s = .next s.started ∧ s.started.indLevel = some .off ∧
      s.started.nextDuty.toNat = start.clk.toNat + c.dOff ∧ s.started.nextMode.toNat = start.clk.toNat + c.mOff := by
  obtain ⟨hrun, rfl, hphase, -, -, henv, -, hlast, -⟩ := h
  obtain rfl : s.inputs = start := State.inputs_of_env henv
  have hp : s.phase = .start := hphase.trans (if_pos hn)
  have hclk : s.ClockOk := by
    rw [State.ClockOk, hlast]
    exact Nat.zero_le _
  obtain ⟨-, -, hoff⟩ := (hrun.started hp).sequenced.atRest rfl
  exact ⟨Performs.step_eq (.started hp hrun.wf hclk hduty hmode) hr nofun nofun, hoff, deadline_toNat hduty,
    deadline_toNat hmode⟩

end

/-- Settles O55: RESET and INIT begin a boot with an empty table, N FILLs take the draws into it one by one, and START
finds it full. -/
theorem bootFillsTheTableAndStarts : Obligations.BootFillsTheTableAndStarts := by
  intro s request e start draws rest c hvalid henv hrequest hrst hok hlen hbounds hduty hmode
  obtain ⟨hre, hrest⟩ := List.forall_mem_cons.mp hrst
  obtain ⟨hrstart, hrdraws⟩ := List.forall_mem_cons.mp hrest
  obtain ⟨t, hbegin, hempty⟩ := booting_of_request hvalid henv hrequest hre hok
  obtain ⟨u, hfills, hfull⟩ := hempty.fills (by simp [hlen, c]) hbounds hrdraws
  obtain ⟨hstart, hoff, hnextDuty, hnextMode⟩ :=
    hfull.started hlen hrstart (fitsTime_iff_lt.mpr hduty) (fitsTime_iff_lt.mpr hmode)
  have hrun := (hbegin.append hfills).append ((RunsTo.refl _).cons hstart)
  obtain ⟨hafter, hevents⟩ := hrun.of_length (k := c.n + 3) (by simp [hlen])
  have hclk : u.inputs.clk = start.clk := congrArg Inputs.clk (State.inputs_of_env hfull.env)
  exact ⟨hevents, u.started, hafter, rfl, rfl, rfl, hfull.fillIdx.trans hlen, congrArg List.tail hfull.env, hclk,
    hclk, hnextDuty, hnextMode, hoff, hfull.dutyOut, fun i _ => hfull.entries i⟩

end Sys2Proof.Machine
end

section
/-! PROOF. The scaler (spec/42_scaler.md): its corner cases, its order, and the counting of its 256 inputs against the
NATIVE_MAX + 1 values of its range. -/

namespace Sys2Proof.Machine

variable {nativeMax : Nat}

/-! ## The corner values and the order of `scale` (R120, R121) -/

@[simp] theorem scale_zero : scale nativeMax 0 = 0 := by simp [scale]

@[simp] theorem scale_top : scale nativeMax 255 = nativeMax := Nat.mul_div_cancel_left _ (by decide)

theorem scale_of_nativeMax_255 (v : Byte) : scale 255 v = v.toNat := Nat.mul_div_cancel _ (by decide)

theorem scale_of_nativeMax_1 {v : Byte} (h : v < 255) : scale 1 v = 0 := by
  rw [scale, Nat.mul_one]
  exact Nat.div_eq_of_lt (BitVec.lt_def.mp h)

theorem scale_mono {v w : Byte} (h : v ≤ w) : scale nativeMax v ≤ scale nativeMax w :=
  Nat.div_le_div_right (Nat.mul_le_mul_right _ (BitVec.le_def.mp h))

theorem scale_51_lt_scale_204 (h : 2 ≤ nativeMax) : scale nativeMax 51 < scale nativeMax 204 := by
  change 51 * nativeMax / 255 < 204 * nativeMax / 255
  omega

theorem nativeMax_lt_of_valid {c : Cfg} (hv : Valid c) : c.nativeMax < 2 ^ c.nativeW := by
  obtain ⟨-, -, -, -, -, -, ⟨hone, hmax⟩, -⟩ := hv
  omega

/-! ## Inputs against outputs -/

theorem card_byte : (Finset.univ : Finset Byte).card = 256 := by
  rw [Finset.card_univ, Fintype.card_congr BitVec.equivFin.toEquiv, Fintype.card_fin]
  rfl

theorem scale_mem_range (v : Byte) : scale nativeMax v ∈ Finset.range (nativeMax + 1) :=
  Finset.mem_range_succ_iff.mpr (scale_le nativeMax v)

/-- A range of fewer values than there are inputs gives two inputs one output. -/
theorem exists_ne_scale_eq (h : nativeMax < 255) : ∃ v w : Byte, v ≠ w ∧ scale nativeMax v = scale nativeMax w := by
  have hcard : (Finset.range (nativeMax + 1)).card < (Finset.univ : Finset Byte).card := by
    rw [Finset.card_range, card_byte]
    omega
  obtain ⟨v, -, w, -, hne, heq⟩ :=
    Finset.exists_ne_map_eq_of_card_lt_of_maps_to hcard fun v _ => scale_mem_range v
  exact ⟨v, w, hne, heq⟩

/-- A range of more values than there are inputs has one that is no input's output. -/
theorem exists_scale_ne (h : 255 < nativeMax) : ∃ d, d ≤ nativeMax ∧ ∀ v : Byte, scale nativeMax v ≠ d := by
  have hcard : (Finset.univ.image (scale nativeMax)).card < (Finset.range (nativeMax + 1)).card := by
    have hle := Finset.card_image_le (s := Finset.univ) (f := scale nativeMax)
    rw [card_byte] at hle
    rw [Finset.card_range]
    omega
  obtain ⟨d, hd, hskip⟩ := Finset.exists_mem_notMem_of_card_lt_card hcard
  exact ⟨d, Finset.mem_range_succ_iff.mp hd, fun v hv => hskip (Finset.mem_image.mpr ⟨v, Finset.mem_univ v, hv⟩)⟩

end Sys2Proof.Machine
end

section
/-! PROOF. The two statements about the scaler. -/

namespace Sys2Proof.Machine

/-- Settles O43: each corner case is a lemma about `scale`; below and above NATIVE_MAX = 255 by counting inputs against
outputs. -/
theorem scaleCoversTheNativeRange : Obligations.ScaleCoversTheNativeRange := by
  intro c hv
  refine ⟨scale_zero, scale_top, fun v => ⟨rfl, scale_le _ v, ?fits⟩, ?identity, exists_ne_scale_eq, exists_scale_ne,
    ?one⟩
  case fits => exact (scale_le _ v).trans_lt (nativeMax_lt_of_valid hv)
  case identity =>
    intro h v
    rw [h, scale_of_nativeMax_255]
  case one =>
    intro h v hlt
    rw [h, scale_of_nativeMax_1 hlt]

/-- Settles O42: the product and the quotient are monotonic, and from NATIVE_MAX = 2 on the two products of the
reference range are further apart than the divisor. -/
theorem scaleIsMonotonic : Obligations.ScaleIsMonotonic :=
  ⟨fun _ _ _ => scale_mono, fun _ => scale_51_lt_scale_204, scale_of_nativeMax_1 (by decide),
    scale_of_nativeMax_1 (by decide)⟩

end Sys2Proof.Machine
end

section
/-! PROOF. The mode cycle (spec/43_mode_scheduler.md): what `advance` gives when it is applied k times, and its period. -/

namespace Sys2Proof.Machine

/-- R130 along k firings: `advance` is the successor modulo M, so k applications of it add k modulo M. -/
theorem advance_iterate_toNat {modes : Nat} {m : ModeNo} (h8 : modes ≤ 8) (hm : m.toNat < modes) (k : Nat) :
    ((advance modes)^[k] m).toNat = (m.toNat + k) % modes := by
  induction k with
  | zero => exact (Nat.mod_eq_of_lt hm).symm
  | succ k ih =>
    rw [Function.iterate_succ_apply', advance_toNat _ (Nat.one_le_of_lt hm) h8, ih, Nat.mod_add_mod, Nat.add_assoc]

/-- Settles O44: k applications add k modulo M, and that gives the mode back just when M divides k. -/
theorem modeCycleHasPeriodM : Obligations.ModeCycleHasPeriodM := by
  intro modes m k _ h8 hm
  calc (advance modes)^[k] m = m
    _ ↔ (m.toNat + k) % modes = m.toNat % modes := by
      rw [← BitVec.toNat_inj, advance_iterate_toNat h8 hm, Nat.mod_eq_of_lt hm]
    _ ↔ modes ∣ k := Nat.add_modEq_left_iff

end Sys2Proof.Machine
end

section
/-! PROOF. The selection of the next operation (R160, R221) and what each operation of the loop outside the signal
answers: its success is a case of `Performs`, each fault the failing branch of its check. -/

namespace Sys2Proof.Machine

/-! ## Selection -/

/-- Settles O9: the selected word is the code of the selected operation, so it decodes to that one. -/
theorem stepRunsTheDecodedOperation : Obligations.StepRunsTheDecodedOperation := by
  refine fun s => ⟨fun w i hw hi => ?_, fun hw => ?_⟩
  · obtain ⟨j, hsel, rfl⟩ := Option.map_eq_some_iff.mp hw
    rw [encodeThenDecode j] at hi
    cases hi
    rw [step, hsel]
  · rw [step, Option.map_eq_none_iff.mp hw]
    rfl

/-- Without a reset request the operation selected is `next_op`'s. -/
theorem State.selected_op {s : State} (hr : s.inputs.rst = false) : s.selected.map Instr.op = s.nextOp := by
  rw [State.selected, if_neg (Bool.eq_false_iff.mp hr)]
  cases s.nextOp with
  | none => rfl
  | some o => exact congrArg some (s.fieldsOf_op o)

/-- Settles O10: each clause is the line of the case table that `next_op` has for the phase. -/
theorem nextOperationByPhase : Obligations.NextOperationByPhase := by
  refine fun s => ⟨fun hr => if_pos hr, fun hr => ?_⟩
  have atHome {o : Op} {p : Phase} (h : home o = some p) (hp : s.phase = p) : s.selected.map Instr.op = some o :=
    (State.selected_op hr).trans ((State.nextOp_eq_iff_home h).mpr hp)
  refine ⟨atHome rfl, atHome rfl, atHome rfl, atHome rfl, atHome rfl, atHome rfl, atHome rfl, fun hp hrun => ?wait,
    fun hp hend hon => ?onEnd, fun hp hend hoff => ?offEnd, atHome rfl, atHome rfl, fun hp => ?fault,
    fun hp => ?reserved⟩
  case wait => exact (State.selected_op hr).trans (State.nextOp_eq_sigWait.mpr ⟨hp, hrun⟩)
  case onEnd => exact (State.selected_op hr).trans (State.nextOp_eq_sigOnEnd.mpr ⟨hp, BitVec.not_lt.mpr hend, hon⟩)
  case offEnd =>
    exact (State.selected_op hr).trans (State.nextOp_eq_sigOffEnd.mpr ⟨hp, BitVec.not_lt.mpr hend, hoff⟩)
  case fault => exact Option.map_eq_none_iff.mp ((State.selected_op hr).trans (State.nextOp_eq_none.mpr hp))
  case reserved => exact step_of_nextOp_eq_fault hr (State.nextOp_eq_fault.mpr hp)

/-! ## The operations -/

/-- Settles O17: the success is the case of `Performs`; the faults are the checks in their order. -/
theorem sampleResult : Obligations.SampleResult := by
  intro s md hp
  have hsel : s.nextOp = some .sample := (State.nextOp_eq_iff_home rfl).mpr hp
  refine ⟨fun hwf hclk => ?_, fun hwf => ?_, fun hwf hback => ?_⟩
  · exact Performs.exec_eq (i := .sample md) (.sampled hp hwf hclk) nofun nofun
  · exact checked_of_not_wf _ hsel hwf
  · exact sampled_of_backward _ hsel hwf (BitVec.not_le.mpr hback)

/-- A failed write is raised from the state that the firing leaves (R198). -/
theorem exec_dutyCheck_of_writeFailed {s : State} {f : Bool} {md : ModeNo} {idx : Index} {val v : Byte}
    (hp : s.phase = .duty) (hwf : s.WF) (hdue : s.DutyDue) (hfits : FitsTime s.tIter (interval s.cfg s.mode))
    (hread : s.memRead s.cursor = some v) (hfailed : s.inputs.wrOk = false) :
    exec (.dutyCheck f md idx val) s = .next ((s.dutyFired v).raise .pwmWriteFailed) := by
  refine (checked_of _ ((State.nextOp_eq_iff_home rfl).mpr hp) hwf).trans ?_
  rw [if_pos hdue, unlessOverflow_of _ hfits, hread]
  exact congrArg _ (if_neg (Bool.eq_false_iff.mp hfailed))

/-- Settles O18: the entry that is played is the one that a well-formed state has at the cursor. -/
theorem dutyCheckResult : Obligations.DutyCheckResult := by
  intro s f md idx val hp fits
  have hsel : s.nextOp = some .dutyCheck := (State.nextOp_eq_iff_home rfl).mpr hp
  refine ⟨fun hwf hearly => ?_, fun hwf hdue hfits hok => ?_, fun hwf hdue hfits hfailed => ?_, fun hwf => ?_,
    fun hwf hdue hover => ?_⟩
  · exact Performs.exec_eq (i := .dutyCheck f md idx val) (.dutyPassed hp hwf (BitVec.not_le.mpr hearly)) nofun nofun
  · obtain ⟨v, hread, hentry⟩ := State.memRead_cursor hwf (congrArg Phase.inLoop hp)
    exact ⟨v, hentry, Performs.exec_eq (i := .dutyCheck f md idx val)
      (.dutyFired hp hwf hdue (fitsTime_iff_lt.mpr hfits) hread hok) nofun nofun⟩
  · obtain ⟨v, hread, hentry⟩ := State.memRead_cursor hwf (congrArg Phase.inLoop hp)
    exact ⟨v, hentry, exec_dutyCheck_of_writeFailed hp hwf hdue (fitsTime_iff_lt.mpr hfits) hread hfailed⟩
  · exact checked_of_not_wf _ hsel hwf
  · exact (checked_of _ hsel hwf).trans ((if_pos hdue).trans (unlessOverflow_of_not _ (mt fitsTime_iff_lt.mp hover)))

/-- Settles O19: the mode that `advance` gives is `(mode + 1) mod M` as a number, for the signal count too. -/
theorem modeCheckResult : Obligations.ModeCheckResult := by
  intro s f md val hp m
  have hsel : s.nextOp = some .modeCheck := (State.nextOp_eq_iff_home rfl).mpr hp
  refine ⟨fun hwf hearly => ?_, fun hwf hdue hfits => ?_, fun hwf => ?_, fun hwf hdue hover => ?_⟩
  · exact Performs.exec_eq (i := .modeCheck f md val) (.modePassed hp hwf (BitVec.not_le.mpr hearly)) nofun nofun
  · have hexec : exec (.modeCheck f md val) s = .next s.modeFired :=
      Performs.exec_eq (.modeFired hp hwf hdue (fitsTime_iff_lt.mpr hfits)) nofun nofun
    have ⟨hvalid, _⟩ := hwf
    obtain ⟨-, hm, -⟩ := one_le_of_valid hvalid
    have hcount : signalCount (advance s.cfg.m s.mode) = m + 1 :=
      congrArg (· + 1) (advance_toNat s.mode hm (modes_le_of_valid hvalid))
    rw [hexec, ← hcount]
    rfl
  · exact checked_of_not_wf _ hsel hwf
  · exact (checked_of _ hsel hwf).trans ((if_pos hdue).trans
      (unlessOverflow_of_not _ (mt fitsTime_iff_lt.mp (Nat.not_lt.mpr hover))))

/-- Settles O20: the counter as a word counts as the number does. -/
theorem iterEndResult : Obligations.IterEndResult := by
  intro s f md hp
  have hsel : s.nextOp = some .iterEnd := (State.nextOp_eq_iff_home rfl).mpr hp
  refine ⟨fun hwf hlast => ?_, fun hwf hmore => ?_, fun hwf => ?_⟩
  · exact Performs.exec_eq (i := .iterEnd f md) (.iterYields hp hwf hlast) nofun nofun
  · have hexec : exec (.iterEnd f md) s = .next s.iterRepeats :=
      Performs.exec_eq (.iterRepeats hp hwf hmore) nofun nofun
    have hcnt : s.iterCnt + 1 = BitVec.ofNat 32 (s.iterCnt.toNat + 1) := by
      rw [BitVec.ofNat_add, BitVec.ofNat_toNat, BitVec.setWidth_eq]
      rfl
    rw [hexec, hcnt]
    rfl
  · exact checked_of_not_wf _ hsel hwf

/-- Settles O21: there is nothing to check but the well-formedness. -/
theorem yieldResult : Obligations.YieldResult := by
  intro s md hp
  refine ⟨fun hwf => ?_, fun hwf => ?_⟩
  · exact Performs.exec_eq (i := .yield md) (.yielded hp hwf) nofun nofun
  · exact checked_of_not_wf _ ((State.nextOp_eq_iff_home rfl).mpr hp) hwf

end Sys2Proof.Machine
end

section
/-! PROOF. The steps of the update loop (spec/44_update_loop.md): what a step without reset and without fault can do
there, said once, and the induction along the runs of the loop. -/

namespace Sys2Proof.Machine

/-! ## A step of the loop -/

/-- What a step of the loop that raises no fault leaves, with what it found: the loop's cases of `Performs`. -/
inductive LoopStep (s : State) : State → Prop
  | sampled (phase : s.phase = .sample) (clock : s.ClockOk) : LoopStep s s.sampled
  | dutyFired {v : Byte} (phase : s.phase = .duty) (due : s.DutyDue)
      (fits : FitsTime s.tIter (interval s.cfg s.mode)) : LoopStep s (s.dutyFired v)
  | dutyPassed (phase : s.phase = .duty) (notDue : ¬s.DutyDue) : LoopStep s s.dutyPassed
  | modeFired (phase : s.phase = .mode) (due : s.ModeDue) (fits : FitsTime s.tIter s.cfg.msi) : LoopStep s s.modeFired
  | modePassed (phase : s.phase = .mode) (notDue : ¬s.ModeDue) : LoopStep s s.modePassed
  | iterYields (phase : s.phase = .iterEnd) (follows : s.YieldFollows) : LoopStep s s.iterYields
  | iterRepeats (phase : s.phase = .iterEnd) (goesOn : ¬s.YieldFollows) : LoopStep s s.iterRepeats
  | yielded (phase : s.phase = .yield) : LoopStep s s.yielded
  | signalStarted (phase : s.phase = .sigStart) (clock : s.ClockOk) (fits : FitsTime s.inputs.clk s.cfg.tOn) :
      LoopStep s s.signalStarted
  | signalPolled (phase : s.phase = .signal) (clock : s.ClockOk) (running : s.PulseRunning s.inputs.clk) :
      LoopStep s s.signalPolled
  | signalEnded (phase : s.phase = .signal) (clock : s.ClockOk) (reached : ¬s.PulseRunning s.inputs.clk)
      (on : s.seqState = .on) (last : s.seqRem - 1 = 0) : LoopStep s s.signalEnded
  | pulseEnded (phase : s.phase = .signal) (clock : s.ClockOk) (reached : ¬s.PulseRunning s.inputs.clk)
      (on : s.seqState = .on) (more : s.seqRem - 1 ≠ 0) (fits : FitsTime s.inputs.clk s.cfg.tOff) :
      LoopStep s s.pulseEnded
  | pulseStarted (phase : s.phase = .signal) (clock : s.ClockOk) (reached : ¬s.PulseRunning s.inputs.clk)
      (off : s.seqState ≠ .on) (fits : FitsTime s.inputs.clk s.cfg.tOn) : LoopStep s s.pulseStarted

/-- A running engine in a phase of the loop. -/
structure Looping (s : State) : Prop extends Running s where
  inLoop : s.phase.inLoop = true

section
variable {s t u : State} {o : Op} {d m y : Nat}

theorem Phase.ne_of_inLoop {p q : Phase} (hp : p.inLoop = true) (hq : q.inLoop = false) : p ≠ q := by
  rintro rfl
  simp [hq] at hp

theorem Inv.looping (h : Inv s) (hl : s.phase.inLoop = true) : Looping s :=
  ⟨h.running rfl (Phase.ne_of_inLoop hl rfl) (Phase.ne_of_inLoop hl rfl), hl⟩

/-- What an operation does from a phase of the loop: RESET, a fault, or a step of the loop. -/
theorem Performs.loopStep (h : Performs s o t) (hl : s.phase.inLoop = true) (ho : o ≠ .reset)
    (ht : t.phase ≠ .fault) : LoopStep s t := by
  cases h with
  | raised | initRejected | dutyWriteFailed => exact absurd rfl ht
  | reset => exact absurd rfl ho
  | initialized hp | filled hp | started hp => exact absurd hp (Phase.ne_of_inLoop hl rfl)
  | sampled hp _ hclk => exact .sampled hp hclk
  | dutyFired hp _ hdue hfits => exact .dutyFired hp hdue hfits
  | dutyPassed hp _ hdue => exact .dutyPassed hp hdue
  | modeFired hp _ hdue hfits => exact .modeFired hp hdue hfits
  | modePassed hp _ hdue => exact .modePassed hp hdue
  | iterYields hp _ hk => exact .iterYields hp hk
  | iterRepeats hp _ hk => exact .iterRepeats hp hk
  | yielded hp => exact .yielded hp
  | signalStarted hp _ hclk hfits => exact .signalStarted hp hclk hfits
  | signalPolled hp _ hclk hrun => exact .signalPolled hp hclk hrun
  | signalEnded hp _ hclk hover hon hlast => exact .signalEnded hp hclk hover hon hlast
  | pulseEnded hp _ hclk hover hon hmore hfits => exact .pulseEnded hp hclk hover hon hmore hfits
  | pulseStarted hp _ hclk hover hoff hfits => exact .pulseStarted hp hclk hover hoff hfits

theorem LoopStep.inLoop (h : LoopStep s t) : t.phase.inLoop = true := by
  cases h with
  | signalPolled hp | pulseEnded hp | pulseStarted hp => exact (congrArg Phase.inLoop hp).trans rfl
  | _ => rfl

theorem LoopStep.cfg_eq (h : LoopStep s t) : t.cfg = s.cfg := by
  cases h <;> rfl

/-- A step of the engine in the loop is a step of the loop, unless it is reset or faults. -/
theorem Looping.loopStep (h : Looping s) (hr : s.inputs.rst = false) (hstep : step s = .next t) (hf : NoFault t) :
    LoopStep s t := by
  obtain ⟨hrst, -⟩ | ⟨-, hp, -⟩ | ⟨-, o, hsel, hs⟩ := step_performs hstep
  · simp [hr] at hrst
  · exact absurd hp (Phase.ne_of_inLoop h.inLoop rfl)
  · refine hs.loopStep h.inLoop (fun ho => s.nextOp_ne_reset (ho ▸ hsel)) fun hp => ?_
    exact (hs.inv h.inv).faulted.mp hp hf

theorem Looping.next (h : Looping s) (hstep : step s = .next t) (hs : LoopStep s t) : Looping t :=
  (stepKeepsTheInvariant s t h.inv hstep).looping hs.inLoop

/-- Induction along a run of the loop: what holds at its start and is kept by every step of the loop, with the firings
counted, holds at its end. -/
theorem LoopRun.induct {P : (d m y : Nat) → State → Prop} (run : LoopRun s d m y t) (h : Looping s)
    (here : P 0 0 0 s)
    (next : ∀ {d m y t u}, Looping t → t.cfg = s.cfg → LoopStep t u → P d m y t →
      P (d + t.dutyFires.toNat) (m + t.modeFires.toNat) (y + t.iterEnds.toNat) u) : P d m y t := by
  suffices Looping t ∧ t.cfg = s.cfg ∧ P d m y t from this.2.2
  induction run with
  | here => exact ⟨h, rfl, here⟩
  | step _ _ hr hstep hf ih =>
    obtain ⟨hloop, hcfg, hP⟩ := ih
    have hs := hloop.loopStep hr hstep hf
    exact ⟨hloop.next hstep hs, hs.cfg_eq.trans hcfg, next hloop hcfg hs hP⟩

/-! ## What fires, and what no firing leaves as it was -/

theorem State.dutyFires_iff : s.dutyFires = true ↔ s.phase = .duty ∧ s.DutyDue := decide_eq_true_iff

theorem State.modeFires_iff : s.modeFires = true ↔ s.phase = .mode ∧ s.ModeDue := decide_eq_true_iff

/-- The cursor and the duty deadline are written by a firing DUTY_CHECK only. -/
theorem LoopStep.duty (h : LoopStep s t) :
    (s.dutyFires = true ∧ FitsTime s.tIter (interval s.cfg s.mode) ∧ ∃ v, t = s.dutyFired v) ∨
    (s.dutyFires = false ∧ t.cursor = s.cursor ∧ t.nextDuty = s.nextDuty) := by
  cases h with
  | dutyFired hp hdue hfits => exact .inl ⟨State.dutyFires_iff.mpr ⟨hp, hdue⟩, hfits, _, rfl⟩
  | dutyPassed _ hdue => exact .inr ⟨decide_eq_false fun h => hdue h.2, rfl, rfl⟩
  | _ => exact .inr ⟨by simp [State.dutyFires, *], rfl, rfl⟩

/-- The mode and its deadline are written by a firing MODE_CHECK only. -/
theorem LoopStep.mode (h : LoopStep s t) :
    (s.modeFires = true ∧ FitsTime s.tIter s.cfg.msi ∧ t = s.modeFired) ∨
    (s.modeFires = false ∧ t.mode = s.mode ∧ t.nextMode = s.nextMode) := by
  cases h with
  | modeFired hp hdue hfits => exact .inl ⟨State.modeFires_iff.mpr ⟨hp, hdue⟩, hfits, rfl⟩
  | modePassed _ hdue => exact .inr ⟨decide_eq_false fun h => hdue h.2, rfl, rfl⟩
  | _ => exact .inr ⟨by simp [State.modeFires, *], rfl, rfl⟩

/-- The yield counter is written by ITER_END only. -/
theorem LoopStep.iteration (h : LoopStep s t) :
    (s.iterEnds = true ∧ s.YieldFollows ∧ t = s.iterYields) ∨
    (s.iterEnds = true ∧ ¬s.YieldFollows ∧ t = s.iterRepeats) ∨
    (s.iterEnds = false ∧ t.iterCnt = s.iterCnt) := by
  cases h with
  | iterYields hp hk => exact .inl ⟨decide_eq_true hp, hk, rfl⟩
  | iterRepeats hp hk => exact .inr (.inl ⟨decide_eq_true hp, hk, rfl⟩)
  | _ => exact .inr (.inr ⟨by simp [State.iterEnds, *], rfl⟩)

end

end Sys2Proof.Machine
end

section
/-! PROOF. The counters of the update loop (R153, R136, R154): each is its start value advanced by the number of
firings, because it is so for one step. -/

namespace Sys2Proof.Machine

/-- `t` has the counters of `s` advanced by `d`, `m` and `y` modulo N, M and K. -/
structure Counted (s : State) (d m y : Nat) (t : State) : Prop where
  cursor : t.cursor.toNat = (s.cursor.toNat + d) % s.cfg.n
  mode : t.mode.toNat = (s.mode.toNat + m) % s.cfg.m
  iterCnt : t.iterCnt.toNat = (s.iterCnt.toNat + y) % s.cfg.k

section
variable {s t u : State} {d d' m m' y y' : Nat}

theorem Looping.counted_refl (h : Looping s) : Counted s 0 0 0 s :=
  ⟨(Nat.mod_eq_of_lt h.cursorBound).symm, (Nat.mod_eq_of_lt h.modeBound).symm, (Nat.mod_eq_of_lt h.cadence).symm⟩

theorem Counted.trans (h : Counted s d m y t) (h' : Counted t d' m' y' u) (hc : t.cfg = s.cfg) :
    Counted s (d + d') (m + m') (y + y') u := by
  constructor
  · rw [h'.cursor, h.cursor, hc, Nat.mod_add_mod, Nat.add_assoc]
  · rw [h'.mode, h.mode, hc, Nat.mod_add_mod, Nat.add_assoc]
  · rw [h'.iterCnt, h.iterCnt, hc, Nat.mod_add_mod, Nat.add_assoc]

theorem State.iterRepeats_iterCnt_toNat (h : s.iterCnt.toNat + 1 < 2 ^ 32) :
    s.iterRepeats.iterCnt.toNat = s.iterCnt.toNat + 1 :=
  (BitVec.toNat_ofNat ..).trans (Nat.mod_eq_of_lt h)

theorem LoopStep.counted (h : LoopStep s t) (hl : Looping s) :
    Counted s s.dutyFires.toNat s.modeFires.toNat s.iterEnds.toNat t := by
  obtain ⟨⟨hn1, hn⟩, -, ⟨hm1, hm8, -⟩, -, -, -, -, -, hk⟩ := hl.valid
  constructor
  · obtain ⟨hf, -, v, rfl⟩ | ⟨hf, hcursor, -⟩ := h.duty
    · rw [hf]
      exact nextCursor_toNat _ hn1 hn
    · rw [hf, hcursor]
      exact hl.counted_refl.cursor
  · obtain ⟨hf, -, rfl⟩ | ⟨hf, hmode, -⟩ := h.mode
    · rw [hf]
      exact advance_toNat _ hm1 hm8
    · rw [hf, hmode]
      exact hl.counted_refl.mode
  · obtain ⟨hf, hlast, rfl⟩ | ⟨hf, hmore, rfl⟩ | ⟨hf, hcnt⟩ := h.iteration
    · rw [hf, Bool.toNat_true, hlast, Nat.mod_self]
      rfl
    · have hlt : s.iterCnt.toNat + 1 < s.cfg.k := Nat.lt_of_le_of_ne hl.cadence hmore
      rw [hf, Bool.toNat_true, Nat.mod_eq_of_lt hlt]
      exact State.iterRepeats_iterCnt_toNat (hlt.trans_le (hk.trans (by decide)))
    · rw [hf, hcnt]
      exact hl.counted_refl.iterCnt

end

/-- Settles O45: one step of the loop advances each counter by its own firing, and advances add up along the run. -/
theorem countersFollowTheFirings : Obligations.CountersFollowTheFirings := by
  intro s t d m y hinv hloop run
  have hs := hinv.looping hloop
  obtain ⟨hcursor, hmode, hcnt⟩ := run.induct (P := Counted s) hs hs.counted_refl
    fun ht hcfg hstep hcounted => hcounted.trans (hstep.counted ht) hcfg
  exact ⟨hcursor, hmode, hcnt⟩

end Sys2Proof.Machine
end

section
/-! PROOF. The times of the update loop (R149, R150): deadlines stand until they fire, and the iteration's one sample
decides both. -/

namespace Sys2Proof.Machine

section
variable {s t u v : State} {d m y : Nat}

theorem LoopRun.nextDuty_eq (h : Looping s) (run : LoopRun s 0 m y t) : t.nextDuty = s.nextDuty := by
  refine run.induct (P := fun d _ _ t => d = 0 → t.nextDuty = s.nextDuty) h (fun _ => rfl) ?_ rfl
  intro d _ _ t u _ _ hstep ih hd
  obtain ⟨hf, -⟩ | ⟨-, -, hkept⟩ := hstep.duty
  · simp [hf] at hd
  · exact hkept.trans (ih (Nat.eq_zero_of_add_eq_zero_right hd))

theorem LoopRun.nextMode_eq (h : Looping s) (run : LoopRun s d 0 y t) : t.nextMode = s.nextMode := by
  refine run.induct (P := fun _ m _ t => m = 0 → t.nextMode = s.nextMode) h (fun _ => rfl) ?_ rfl
  intro _ m _ t u _ _ hstep ih hm
  obtain ⟨hf, -⟩ | ⟨-, -, hkept⟩ := hstep.mode
  · simp [hf] at hm
  · exact hkept.trans (ih (Nat.eq_zero_of_add_eq_zero_right hm))

theorem LoopStep.nextDuty_toNat (h : LoopStep s t) (hf : s.dutyFires = true) :
    t.nextDuty.toNat = s.tIter.toNat + interval s.cfg s.mode := by
  obtain ⟨-, hfits, v, rfl⟩ | ⟨hnot, -⟩ := h.duty
  · exact deadline_toNat hfits
  · simp [hf] at hnot

theorem LoopStep.nextMode_toNat (h : LoopStep s t) (hf : s.modeFires = true) :
    t.nextMode.toNat = s.tIter.toNat + s.cfg.msi := by
  obtain ⟨-, hfits, rfl⟩ | ⟨hnot, -⟩ := h.mode
  · exact deadline_toNat hfits
  · simp [hf] at hnot

theorem LoopStep.eq_sampled (h : LoopStep s t) (hp : s.phase = .sample) : t = s.sampled := by
  cases h with
  | sampled => rfl
  | _ => simp_all

/-- DUTY_CHECK hands over to MODE_CHECK and leaves what that one decides on. -/
theorem LoopStep.of_duty (h : LoopStep s t) (hp : s.phase = .duty) :
    t.phase = .mode ∧ t.tIter = s.tIter ∧ t.nextMode = s.nextMode := by
  cases h with
  | dutyFired | dutyPassed => exact ⟨rfl, rfl, rfl⟩
  | _ => simp_all

end

/-- Settles O46: a firing schedules its deadline an interval ahead, and the deadline stands until the next firing finds
it due. -/
theorem firingsAreAnIntervalApart : Obligations.FiringsAreAnIntervalApart := by
  intro s u v hinv hloop hr hstep hnf
  have hs := hinv.looping hloop
  have hfirst := hs.loopStep hr hstep hnf
  have hu := hs.next hstep hfirst
  refine ⟨fun m y hf run hf' => ?_, fun d y hf run hf' => ?_⟩
  · obtain ⟨-, hdue⟩ := State.dutyFires_iff.mp hf'
    rw [← hfirst.nextDuty_toNat hf, ← run.nextDuty_eq hu]
    exact hdue
  · obtain ⟨-, hdue⟩ := State.modeFires_iff.mp hf'
    rw [← hfirst.nextMode_toNat hf, ← run.nextMode_eq hu]
    exact hdue

/-- Settles O48: SAMPLE makes the sample `t_iter`, and DUTY_CHECK leaves both `t_iter` and the mode deadline. -/
theorem oneTimeBasePerIteration : Obligations.OneTimeBasePerIteration := by
  intro s t u hinv hp hr hstep hnf hr' hstep' hnf'
  have hs := hinv.looping (congrArg Phase.inLoop hp)
  have hfirst := hs.loopStep hr hstep hnf
  have ht := hs.next hstep hfirst
  obtain rfl := hfirst.eq_sampled hp
  obtain ⟨hphase, htime, hdeadline⟩ := (ht.loopStep hr' hstep' hnf').of_duty rfl
  refine ⟨rfl, hphase, ?_, ?_⟩
  · exact State.dutyFires_iff.trans (and_iff_right rfl)
  · rw [State.modeFires_iff, State.ModeDue, htime, hdeadline]
    exact and_iff_right hphase

/-- Settles O49: what is not RESET and does not fault is a step of the loop. -/
theorem loopNeverExits : Obligations.LoopNeverExits := by
  intro i s t hloop h hreset
  by_cases hp : t.phase = .fault
  · exact .inr hp
  · exact .inl ((exec_performs h).loopStep hloop hreset hp).inLoop

/-- A DUTY_CHECK that fires leaves a well-formed state, whether the table is canonical or not. -/
theorem State.WF.dutyFired {s : State} (h : s.WF) (hp : s.phase = .duty) (v : Byte) : (s.dutyFired v).WF := by
  obtain ⟨hvalid, -, ⟨hmode, -, -, hcnt, hstate, hrem⟩, ⟨-, -, hloop⟩, ⟨-, -, hidle⟩, htime, hfault⟩ := h
  have ⟨⟨hn, hmax⟩, _⟩ := hvalid
  have hcursor : (s.dutyFired v).cursor.toNat < s.cfg.n := (nextCursor_toNat _ hn hmax).trans_lt (Nat.mod_lt _ hn)
  have hnone : NoFault s := Decidable.not_not.mp (mt hfault.mpr (by simp [hp]))
  obtain ⟨hplaced, hfull⟩ := hloop (congrArg Phase.inLoop hp)
  exact State.wf_of_admits hvalid hmode hcursor hcnt hplaced (fun _ => hfull) hrem hstate
    ⟨nofun, nofun, fun _ => hidle (congrArg Phase.inSignal hp)⟩ htime hnone

/-- Settles O47: DUTY_CHECK fires and leaves a well-formed state of phase MODE with the mode deadline still due, so
MODE_CHECK fires in the next step. -/
theorem dutyFiresBeforeMode : Obligations.DutyFiresBeforeMode := by
  intro s hp hwf hduty hmode hdutyFits hmodeFits hr hok hr'
  obtain ⟨v, hread, -⟩ := State.memRead_cursor hwf (congrArg Phase.inLoop hp)
  have hdutyFits := fitsTime_iff_lt.mpr hdutyFits
  have hmodeFits := fitsTime_iff_lt.mpr hmodeFits
  have hfirst := Performs.step_eq (.dutyFired hp hwf hduty hdutyFits hread hok) hr nofun nofun
  have hsecond : step (s.dutyFired v) = .next (s.dutyFired v).modeFired :=
    Performs.step_eq (.modeFired rfl (hwf.dutyFired hp v) hmode hmodeFits) hr' nofun nofun
  exact ⟨s.dutyFired v, (s.dutyFired v).modeFired, hfirst, hsecond, State.dutyFires_iff.mpr ⟨hp, hduty⟩,
    State.modeFires_iff.mpr ⟨rfl, hmode⟩, deadline_toNat hdutyFits, deadline_toNat hmodeFits, rfl, rfl⟩

end Sys2Proof.Machine
end

section
/-! PROOF. The feedback signal inside the loop (R152, R162, R176): how many edges a step leaves, and the earliest sample
at which the signal can be over. -/

namespace Sys2Proof.Machine

section
variable {s t u : State} {r : BitVec 4}

theorem toNat_eq_one_of_pred_eq_zero (h : r - 1 = 0) : r.toNat = 1 := by bv_omega

/-- One pulse fewer, where more than one was left. -/
theorem toNat_pred_of_ne_zero (h : 1 ≤ r.toNat) (hmore : r - 1 ≠ 0) :
    (r - 1).toNat + 1 = r.toNat ∧ 1 ≤ (r - 1).toNat := by
  constructor <;> bv_omega

/-- In a signal at least one pulse is to come or under way. -/
theorem Running.one_le_seqRem (h : Running s) (hp : s.phase.inSignal = true) : 1 ≤ s.seqRem.toNat := by
  obtain ⟨hleft, -⟩ := h.countOk hp
  rwa [BitVec.toNat_setWidth_of_le (by decide)] at hleft

/-! ## The edges left -/

theorem State.edgesLeft_of_sigStart (hp : s.phase = .sigStart) : s.edgesLeft = 2 * s.seqRem.toNat := by
  simp [State.edgesLeft, hp]

theorem State.edgesLeft_of_on (hp : s.phase = .signal) (hon : s.seqState = .on) :
    s.edgesLeft = 2 * s.seqRem.toNat - 1 := by
  simp [State.edgesLeft, hp, hon]

theorem State.edgesLeft_of_off (hp : s.phase = .signal) (hoff : s.seqState ≠ .on) :
    s.edgesLeft = 2 * s.seqRem.toNat := by
  simp [State.edgesLeft, hp, hoff]

/-- A step of a signal that is not a poll emits the next edge, and the signal is over when none is left. -/
theorem LoopStep.edgesLeft_succ (h : LoopStep s t) (hs : Running s) (hp : s.phase.inSignal = true)
    (hreached : s.phase = .signal → s.seqEnd ≤ s.inputs.clk) :
    t.edgesLeft + 1 = s.edgesLeft ∧ (t.edgesLeft = 0 ↔ t.phase = .iterEnd) := by
  have hleft := hs.one_le_seqRem hp
  cases h with
  | signalStarted hp' =>
    have hnew : s.signalStarted.edgesLeft = 2 * s.seqRem.toNat - 1 := State.edgesLeft_of_on rfl rfl
    rw [State.edgesLeft_of_sigStart hp', hnew]
    exact ⟨by omega, iff_of_false (by omega) nofun⟩
  | signalPolled hp' _ hrun => exact absurd hrun (BitVec.not_lt.mpr (hreached hp'))
  | signalEnded hp' _ _ hon hlast =>
    rw [State.edgesLeft_of_on hp' hon, toNat_eq_one_of_pred_eq_zero hlast]
    exact ⟨rfl, iff_of_true rfl rfl⟩
  | pulseEnded hp' _ _ hon hmore =>
    have hnew : s.pulseEnded.edgesLeft = 2 * (s.seqRem - 1).toNat := State.edgesLeft_of_off hp' nofun
    obtain ⟨hpred, hpos⟩ := toNat_pred_of_ne_zero hleft hmore
    rw [State.edgesLeft_of_on hp' hon, hnew]
    exact ⟨by omega, iff_of_false (by omega) fun h => absurd (hp'.symm.trans h) nofun⟩
  | pulseStarted hp' _ _ hoff =>
    have hnew : s.pulseStarted.edgesLeft = 2 * s.seqRem.toNat - 1 := State.edgesLeft_of_on hp' rfl
    rw [State.edgesLeft_of_off hp' hoff, hnew]
    exact ⟨by omega, iff_of_false (by omega) fun h => absurd (hp'.symm.trans h) nofun⟩
  | _ => simp_all

/-! ## The earliest end -/

/-- The ideal duration of a signal of `n` pulses: `n * T_ON + (n - 1) * T_OFF` (R176). -/
def signalDuration (c : Cfg) (n : Nat) : Nat := n * c.tOn + (n - 1) * c.tOff

/-- The earliest sample at which the signal can be over: every pulse phase to come begins no sooner than the one before
it ends. Outside a signal it is the last sample. -/
def State.earliestEnd (s : State) : Nat :=
  match s.phase with
  | .sigStart => s.tLast.toNat + signalDuration s.cfg s.seqRem.toNat
  | .signal =>
    if s.seqState = .on then s.seqEnd.toNat + (s.seqRem.toNat - 1) * (s.cfg.tOff + s.cfg.tOn)
    else s.seqEnd.toNat + signalDuration s.cfg s.seqRem.toNat
  | _ => s.tLast.toNat

theorem State.earliestEnd_of_sigStart (hp : s.phase = .sigStart) :
    s.earliestEnd = s.tLast.toNat + signalDuration s.cfg s.seqRem.toNat := by
  simp [State.earliestEnd, hp]

theorem State.earliestEnd_of_on (hp : s.phase = .signal) (hon : s.seqState = .on) :
    s.earliestEnd = s.seqEnd.toNat + (s.seqRem.toNat - 1) * (s.cfg.tOff + s.cfg.tOn) := by
  simp [State.earliestEnd, hp, hon]

theorem State.earliestEnd_of_off (hp : s.phase = .signal) (hoff : s.seqState ≠ .on) :
    s.earliestEnd = s.seqEnd.toNat + signalDuration s.cfg s.seqRem.toNat := by
  simp [State.earliestEnd, hp, hoff]

theorem State.earliestEnd_of_rest (hp : s.phase.inSignal = false) : s.earliestEnd = s.tLast.toNat := by
  obtain ⟨hstart, hsignal⟩ := Phase.inSignal_eq_false.mp hp
  unfold State.earliestEnd
  split <;> simp_all

/-- A signal is one pulse, then a gap and a pulse as often as pulses follow. -/
theorem signalDuration_eq (c : Cfg) {n : Nat} (h : 1 ≤ n) :
    signalDuration c n = c.tOn + (n - 1) * (c.tOff + c.tOn) := by
  obtain ⟨k, rfl⟩ := Nat.exists_eq_add_of_le' h
  rw [signalDuration, Nat.add_sub_cancel]
  ring

/-- The pulses that follow an on-phase are a gap and the signal of one pulse fewer. -/
theorem tOff_add_signalDuration (c : Cfg) {n : Nat} (h : 1 ≤ n) :
    c.tOff + signalDuration c n = n * (c.tOff + c.tOn) := by
  obtain ⟨k, rfl⟩ := Nat.exists_eq_add_of_le' h
  rw [signalDuration, Nat.add_sub_cancel]
  ring

/-- No step of the loop brings the end of the signal nearer, but for the MODE_CHECK that starts one. -/
theorem LoopStep.earliestEnd_le (h : LoopStep s t) (hs : Running s) (hf : s.modeFires = false) :
    s.earliestEnd ≤ t.earliestEnd := by
  have hleft := hs.one_le_seqRem
  cases h with
  | modeFired hp hdue => simp [State.modeFires_iff.mpr ⟨hp, hdue⟩] at hf
  | sampled hp hclk =>
    rw [State.earliestEnd_of_rest (congrArg Phase.inSignal hp), State.earliestEnd_of_rest rfl]
    exact hclk
  | signalStarted hp hclk hfits =>
    have hnew : s.signalStarted.earliestEnd =
        (deadline s.inputs.clk s.cfg.tOn).toNat + (s.seqRem.toNat - 1) * (s.cfg.tOff + s.cfg.tOn) :=
      State.earliestEnd_of_on rfl rfl
    have hlast : s.tLast.toNat ≤ s.inputs.clk.toNat := hclk
    rw [State.earliestEnd_of_sigStart hp, signalDuration_eq _ (hleft (by simp [hp])), hnew, deadline_toNat hfits]
    omega
  | signalPolled hp =>
    unfold State.earliestEnd
    simp [State.signalPolled, hp]
  | signalEnded hp _ hreached hon hlast =>
    have hend : s.seqEnd.toNat ≤ s.inputs.clk.toNat := BitVec.not_lt.mp hreached
    rw [State.earliestEnd_of_on hp hon, toNat_eq_one_of_pred_eq_zero hlast, State.earliestEnd_of_rest rfl,
      Nat.sub_self, Nat.zero_mul]
    exact hend
  | pulseEnded hp _ hreached hon hmore hfits =>
    have hnew : s.pulseEnded.earliestEnd =
        (deadline s.inputs.clk s.cfg.tOff).toNat + signalDuration s.cfg (s.seqRem - 1).toNat :=
      State.earliestEnd_of_off hp nofun
    have hend : s.seqEnd.toNat ≤ s.inputs.clk.toNat := BitVec.not_lt.mp hreached
    obtain ⟨hpred, hpos⟩ := toNat_pred_of_ne_zero (hleft (by simp [hp])) hmore
    rw [State.earliestEnd_of_on hp hon, hnew, deadline_toNat hfits, Nat.add_assoc,
      tOff_add_signalDuration _ hpos, ← hpred, Nat.add_sub_cancel]
    omega
  | pulseStarted hp _ hreached hoff hfits =>
    have hnew : s.pulseStarted.earliestEnd =
        (deadline s.inputs.clk s.cfg.tOn).toNat + (s.seqRem.toNat - 1) * (s.cfg.tOff + s.cfg.tOn) :=
      State.earliestEnd_of_on hp rfl
    have hend : s.seqEnd.toNat ≤ s.inputs.clk.toNat := BitVec.not_lt.mp hreached
    rw [State.earliestEnd_of_off hp hoff, signalDuration_eq _ (hleft (by simp [hp])), hnew, deadline_toNat hfits]
    omega
  | dutyFired hp | dutyPassed hp | modePassed hp | iterYields hp | iterRepeats hp | yielded hp =>
    rw [State.earliestEnd_of_rest (congrArg Phase.inSignal hp), State.earliestEnd_of_rest rfl]
    exact Nat.le_refl _

end

/-- Settles O53: with the clock past the end of the pulse phase the step is not a poll, and every other step of a signal
emits one edge. -/
theorem signalEndsAsTheClockAdvances : Obligations.SignalEndsAsTheClockAdvances := by
  intro s t hinv hp hr hreached hstep hnf
  have hloop : s.phase.inLoop = true := by
    obtain hp | hp := Phase.inSignal_eq_true.mp hp <;> exact congrArg Phase.inLoop hp
  have hs := hinv.looping hloop
  exact (hs.loopStep hr hstep hnf).edgesLeft_succ hs.toRunning hp hreached

end Sys2Proof.Machine
end

section
/-! PROOF. The window between two firings of MODE_CHECK (R152): no duty update falls before the signal can be over, and
from then on they are an interval apart. -/

namespace Sys2Proof.Machine

/-- What holds at `t`, after `d` duty updates since the mode firing that led to `u`, if that mode's signal cannot be
over before `floor`: the sample decides on deadlines from `floor` on, and the `d` updates lie an interval apart. -/
structure Window (u : State) (floor d : Nat) (t : State) : Prop where
  mode : t.mode = u.mode
  pending : floor ≤ t.earliestEnd
  deciding : t.phase = .duty ∨ t.phase = .mode → floor ≤ t.tIter.toNat
  spaced : ∀ k, d = k + 1 →
    floor + k * interval u.cfg u.mode ≤ t.tIter.toNat ∧ floor + d * interval u.cfg u.mode ≤ t.nextDuty.toNat

section
variable {s t u : State} {floor d : Nat}

theorem LoopStep.tIter_le (h : LoopStep s t) (hs : Running s) : s.tIter ≤ t.tIter := by
  cases h with
  | sampled _ hclk => exact BitVec.le_trans hs.timeOrder hclk
  | _ => exact BitVec.le_refl _

/-- A step into a phase that decides on a deadline takes the sample or keeps it. -/
theorem LoopStep.deciding (h : LoopStep s t) (ht : t.phase = .duty ∨ t.phase = .mode) :
    (s.phase = .sample ∧ s.tLast ≤ t.tIter) ∨ (s.phase = .duty ∧ t.tIter = s.tIter) := by
  cases h with
  | sampled hp hclk => exact .inl ⟨hp, hclk⟩
  | dutyFired hp | dutyPassed hp => exact .inr ⟨hp, rfl⟩
  | signalPolled hp | pulseEnded hp | pulseStarted hp =>
    obtain ht | ht := ht <;> exact absurd (hp.symm.trans ht) nofun
  | _ => obtain ht | ht := ht <;> cases ht

theorem Window.next (h : Window u floor d s) (hs : Running s) (hcfg : s.cfg = u.cfg) (hf : s.modeFires = false)
    (hstep : LoopStep s t) : Window u floor (d + s.dutyFires.toNat) t := by
  obtain ⟨hfires, -⟩ | ⟨-, hmode, -⟩ := hstep.mode
  · simp [hf] at hfires
  refine ⟨hmode.trans h.mode, h.pending.trans (hstep.earliestEnd_le hs hf), fun ht => ?_, fun k hk => ?_⟩
  · obtain ⟨hp, htime⟩ | ⟨hp, htime⟩ := hstep.deciding ht
    · have hpending := h.pending
      rw [State.earliestEnd_of_rest (congrArg Phase.inSignal hp)] at hpending
      exact hpending.trans htime
    · rw [htime]
      exact h.deciding (.inl hp)
  · have htime : s.tIter.toNat ≤ t.tIter.toNat := hstep.tIter_le hs
    obtain ⟨hfires, -⟩ | ⟨hfires, -, hdeadline⟩ := hstep.duty
    · have hnew := hstep.nextDuty_toNat hfires
      obtain ⟨hp, hdue⟩ := State.dutyFires_iff.mp hfires
      have hdue : s.nextDuty.toNat ≤ s.tIter.toNat := hdue
      rw [hcfg, h.mode] at hnew
      rw [hfires, Bool.toNat_true] at hk ⊢
      obtain rfl : d = k := Nat.succ_injective hk
      have hspaced : floor + d * interval u.cfg u.mode ≤ s.tIter.toNat := by
        cases d with
        | zero => simpa using h.deciding (.inl hp)
        | succ k => exact (h.spaced k rfl).2.trans hdue
      rw [hnew, Nat.succ_mul]
      omega
    · rw [hfires, Bool.toNat_false, Nat.add_zero] at hk ⊢
      obtain ⟨hlast, hnext⟩ := h.spaced k hk
      rw [hdeadline]
      exact ⟨hlast.trans htime, hnext⟩

/-- The mode firing opens its window: the signal begins, and no duty update has fired. -/
theorem Running.window_modeFired (h : Running s) :
    Window s.modeFired (s.tIter.toNat + signalDuration s.cfg (signalCount s.modeFired.mode)) 0 s.modeFired where
  mode := rfl
  pending := by
    have hcount : s.modeFired.seqRem.toNat = signalCount s.modeFired.mode := signalCount_toNat _
    have hlast : s.tIter.toNat ≤ s.modeFired.tLast.toNat := h.timeOrder
    rw [State.earliestEnd_of_sigStart rfl, hcount]
    exact Nat.add_le_add_right hlast _
  deciding := by rintro (h | h) <;> cases h
  spaced := nofun

theorem interval_pos {c : Cfg} (hv : Valid c) {m : ModeNo} (hm : m.toNat < c.m) : 1 ≤ interval c m := by
  obtain ⟨-, -, ⟨-, -, hlen⟩, hintervals, -⟩ := hv
  rw [interval, List.getD_eq_getElem _ _ (hlen ▸ hm)]
  exact (hintervals _ (List.getElem_mem _)).1

end

/-- Settles O54: the window opens with the signal, every step up to the next mode firing keeps it, and updates an
interval apart that all lie between the signal's end and the last sample are that many at most. -/
theorem dutyUpdatesPerModeWindow : Obligations.DutyUpdatesPerModeWindow := by
  intro s u v d y hinv hf hr hstep hnf run hf' signal
  obtain ⟨hp, -⟩ := State.modeFires_iff.mp hf
  obtain ⟨hp', -⟩ := State.modeFires_iff.mp hf'
  have hs := hinv.looping (congrArg Phase.inLoop hp)
  have hfirst := hs.loopStep hr hstep hnf
  have hu := hs.next hstep hfirst
  obtain ⟨-, -, rfl⟩ | ⟨hnot, -⟩ := hfirst.mode
  · have hwindow : Window s.modeFired (s.tIter.toNat + signal) d v := by
      refine run.induct (P := fun d m _ t => m = 0 → Window s.modeFired (s.tIter.toNat + signal) d t) hu
        (fun _ => hs.window_modeFired) ?_ rfl
      intro d m _ t t' ht hcfg hnext ih hm
      obtain ⟨hm, hmf⟩ := Nat.add_eq_zero_iff.mp hm
      exact (ih hm).next ht.toRunning hcfg (by simpa using hmf) hnext
    have hsignal := hwindow.deciding (.inr hp')
    have hpos : 0 < interval s.cfg s.modeFired.mode := interval_pos hu.valid hu.modeBound
    refine ⟨hsignal, ?_⟩
    rw [Nat.sub_sub]
    cases d with
    | zero => exact Nat.zero_le _
    | succ k =>
      obtain ⟨hspaced, -⟩ := hwindow.spaced k rfl
      refine Nat.succ_le_succ ((Nat.le_div_iff_mul_le hpos).mpr (Nat.le_sub_of_add_le ?_))
      rw [Nat.add_comm]
      exact hspaced
  · simp [hf] at hnot

end Sys2Proof.Machine
end

section
/-! PROOF. What the four operations of the sequencer answer (spec/45_feedback_signaler.md): the success of each is a case
of `Performs`, each fault the failing branch of its check. -/

namespace Sys2Proof.Machine

/-- Settles O22: the success is the case of `Performs`; the faults are the checks in their order. -/
theorem sigStartResult : Obligations.SigStartResult := by
  intro s md val hp t
  have hsel : s.nextOp = some .sigStart := (State.nextOp_eq_iff_home rfl).mpr hp
  refine ⟨fun hwf hclk hfits => ?_, fun hwf => ?_, fun hwf hback => ?_, fun hwf hclk hover => ?_⟩
  · exact Performs.exec_eq (i := .sigStart md val) (.signalStarted hp hwf hclk (fitsTime_iff_lt.mpr hfits)) nofun nofun
  · exact checked_of_not_wf _ hsel hwf
  · exact sampled_of_backward _ hsel hwf (BitVec.not_le.mpr hback)
  · exact (sampled_of _ hsel hwf hclk).trans
      (unlessOverflow_of_not _ (mt fitsTime_iff_lt.mp (Nat.not_lt.mpr hover)))

/-- Settles O23: the success is the case of `Performs`, and its F bit is read off each state of the sequencer. -/
theorem sigWaitResult : Obligations.SigWaitResult := by
  intro s f md val hp hrun t
  have hsel : s.nextOp = some .sigWait := State.nextOp_eq_sigWait.mpr ⟨hp, hrun⟩
  refine ⟨fun hwf hclk => ?_, fun hwf => ?_, fun hwf hback => ?_⟩
  · have hexec : exec (.sigWait f md val) s = .next s.signalPolled :=
      Performs.exec_eq (.signalPolled hp hwf hclk hrun) (hp ▸ nofun) nofun
    have hf : BitVec.ofBool (s.seqState == SeqState.on) = if s.seqState = .on then 1 else 0 := by
      cases s.seqState <;> rfl
    rw [hexec, ← hf]
    rfl
  · exact checked_of_not_wf _ hsel hwf
  · exact sampled_of_backward _ hsel hwf (BitVec.not_le.mpr hback)

/-- Settles O24: the two successes are the cases of `Performs` for the last pulse and for a pulse that others follow,
and only the latter has a deadline sum to check. -/
theorem sigOnEndResult : Obligations.SigOnEndResult := by
  intro s md val hp hend hon t off
  have hreached : ¬s.PulseRunning t := BitVec.not_lt.mpr hend
  have hsel : s.nextOp = some .sigOnEnd := State.nextOp_eq_sigOnEnd.mpr ⟨hp, hreached, hon⟩
  have hmore (h : s.seqRem ≠ 1) : s.seqRem - 1 ≠ 0 := fun h' => h (by bv_omega)
  refine ⟨fun hwf hclk hone => ?_, fun hwf hclk hrem hfits => ?_, fun hwf => ?_, fun hwf hback => ?_,
    fun hwf hclk hrem hover => ?_⟩
  · have hlast : s.seqRem - 1 = 0 := by rw [hone]; rfl
    have hexec : exec (.sigOnEnd md val) s = .next s.signalEnded :=
      Performs.exec_eq (.signalEnded hp hwf hclk hreached hon hlast) nofun nofun
    rw [hexec, State.signalEnded, hlast]
    rfl
  · exact Performs.exec_eq (i := .sigOnEnd md val)
      (.pulseEnded hp hwf hclk hreached hon (hmore hrem) (fitsTime_iff_lt.mpr hfits)) (hp ▸ nofun) nofun
  · exact checked_of_not_wf _ hsel hwf
  · exact sampled_of_backward _ hsel hwf (BitVec.not_le.mpr hback)
  · refine (sampled_of _ hsel hwf hclk).trans (unlessOverflow_of_not _ fun hfits => ?_)
    exact Nat.not_lt.mpr hover (fitsTime_iff_lt.mp (hfits (hmore hrem)))

/-- Settles O25: the success is the case of `Performs`; the faults are the checks in their order. -/
theorem sigOffEndResult : Obligations.SigOffEndResult := by
  intro s md val hp hend hoff t
  have hreached : ¬s.PulseRunning t := BitVec.not_lt.mpr hend
  have hnotOn : s.seqState ≠ .on := hoff ▸ nofun
  have hsel : s.nextOp = some .sigOffEnd := State.nextOp_eq_sigOffEnd.mpr ⟨hp, hreached, hnotOn⟩
  refine ⟨fun hwf hclk hfits => ?_, fun hwf => ?_, fun hwf hback => ?_, fun hwf hclk hover => ?_⟩
  · exact Performs.exec_eq (i := .sigOffEnd md val)
      (.pulseStarted hp hwf hclk hreached hnotOn (fitsTime_iff_lt.mpr hfits)) (hp ▸ nofun) nofun
  · exact checked_of_not_wf _ hsel hwf
  · exact sampled_of_backward _ hsel hwf (BitVec.not_le.mpr hback)
  · exact (sampled_of _ hsel hwf hclk).trans
      (unlessOverflow_of_not _ (mt fitsTime_iff_lt.mp (Nat.not_lt.mpr hover)))

end Sys2Proof.Machine
end

section
/-! PROOF. The feedback signal as a whole (R175, R176, R178, R231): the sequencer's operations leave the loop's registers
alone, each step emits the next edge or none, and the signal cannot be over before its pulses are. -/

namespace Sys2Proof.Machine

section
variable {s t u : State} {o : Op} {d m y : Nat}

/-! ## Only the sequencer runs (R175, R178) -/

/-- The operations of the feedback sequencer (R171 to R174). -/
def sequencerOps : List Op := [.sigStart, .sigWait, .sigOnEnd, .sigOffEnd]

/-- The phases of the signal select the sequencer's operations (R160). -/
theorem State.exists_nextOp_eq (hp : s.phase.inSignal = true) : ∃ o ∈ sequencerOps, s.nextOp = some o := by
  obtain hp | hp := Phase.inSignal_eq_true.mp hp
  · exact ⟨.sigStart, by decide, (State.nextOp_eq_iff_home rfl).mpr hp⟩
  · by_cases hrun : s.PulseRunning s.inputs.clk
    · exact ⟨.sigWait, by decide, State.nextOp_eq_sigWait.mpr ⟨hp, hrun⟩⟩
    · by_cases hon : s.seqState = .on
      · exact ⟨.sigOnEnd, by decide, State.nextOp_eq_sigOnEnd.mpr ⟨hp, hrun, hon⟩⟩
      · exact ⟨.sigOffEnd, by decide, State.nextOp_eq_sigOffEnd.mpr ⟨hp, hrun, hon⟩⟩

/-- A sequencer operation emits trace words and edges of the indicator only. -/
theorem Performs.mem_out_of_sequencer {e : Event} (h : Performs s o t) (ho : o ∈ sequencerOps) (he : e ∈ t.out) :
    (∃ w, e = .trace w) ∨ ∃ pin l, e = .indSet pin l := by
  cases h with
  | raised | signalPolled => exact .inl ⟨_, List.mem_singleton.mp he⟩
  | signalStarted | signalEnded | pulseEnded | pulseStarted =>
    obtain he | he := List.mem_pair.mp he
    · exact .inr ⟨_, _, he⟩
    · exact .inl ⟨_, he⟩
  | _ => simp [sequencerOps] at ho

theorem Performs.phase_of_sequencer (h : Performs s o t) (ho : o ∈ sequencerOps) :
    t.phase = .signal ∨ t.phase = .iterEnd ∨ t.phase = .fault := by
  cases h with
  | raised => exact .inr (.inr rfl)
  | signalStarted => exact .inl rfl
  | signalPolled hp | pulseEnded hp | pulseStarted hp => exact .inl hp
  | signalEnded => exact .inr (.inl rfl)
  | _ => simp [sequencerOps] at ho

theorem Performs.frame_of_sequencer (h : Performs s o t) (ho : o ∈ sequencerOps) :
    t.dutyOut = s.dutyOut ∧ t.mode = s.mode ∧ t.tIter = s.tIter := by
  cases h with
  | raised | signalStarted | signalPolled | signalEnded | pulseEnded | pulseStarted => exact ⟨rfl, rfl, rfl⟩
  | _ => simp [sequencerOps] at ho

/-! ## The edges of a signal (R176) -/

theorem Phase.inLoop_of_inSignal {p : Phase} (hp : p.inSignal = true) : p.inLoop = true := by
  obtain rfl | rfl := Phase.inSignal_eq_true.mp hp <;> rfl

theorem State.edgesLeft_of_rest (hp : s.phase.inSignal = false) : s.edgesLeft = 0 := by
  obtain ⟨hstart, hsignal⟩ := Phase.inSignal_eq_false.mp hp
  unfold State.edgesLeft
  split <;> simp_all

/-- Inside a pulse phase that has not ended the only step is a poll. -/
theorem LoopStep.eq_signalPolled (h : LoopStep s t) (hp : s.phase = .signal) (hrun : s.PulseRunning s.inputs.clk) :
    t = s.signalPolled := by
  cases h with
  | signalPolled => rfl
  | _ => simp_all

/-- The next edge of a signal turns the indicator on if an even number is left, off if an odd one is. -/
def State.nextEdge (s : State) : Level := if s.edgesLeft % 2 = 0 then .on else .off

/-- A step of a signal that is not a poll emits the next edge and no other. -/
theorem LoopStep.pinLevels_eq (h : LoopStep s t) (hs : Running s) (hp : s.phase.inSignal = true)
    (hreached : s.phase = .signal → s.seqEnd ≤ s.inputs.clk) :
    pinLevels t.out = [pinLevel s.cfg s.nextEdge] := by
  have hleft := hs.one_le_seqRem hp
  cases h with
  | signalStarted hp' =>
    rw [State.nextEdge, State.edgesLeft_of_sigStart hp', if_pos (by omega)]
    rfl
  | signalPolled hp' _ hrun => exact absurd hrun (BitVec.not_lt.mpr (hreached hp'))
  | signalEnded hp' _ _ hon | pulseEnded hp' _ _ hon =>
    rw [State.nextEdge, State.edgesLeft_of_on hp' hon, if_neg (by omega)]
    rfl
  | pulseStarted hp' _ _ hoff =>
    rw [State.nextEdge, State.edgesLeft_of_off hp' hoff, if_pos (by omega)]
    rfl
  | _ => simp_all

/-! ## The length of a signal (R176, R231) -/

theorem State.signalStarted_earliestEnd (hleft : 1 ≤ s.seqRem.toNat) (hfits : FitsTime s.inputs.clk s.cfg.tOn) :
    s.signalStarted.earliestEnd = s.inputs.clk.toNat + signalDuration s.cfg s.seqRem.toNat := by
  have hnew : s.signalStarted.earliestEnd =
      (deadline s.inputs.clk s.cfg.tOn).toNat + (s.seqRem.toNat - 1) * (s.cfg.tOff + s.cfg.tOn) :=
    State.earliestEnd_of_on rfl rfl
  rw [hnew, deadline_toNat hfits, signalDuration_eq _ hleft, Nat.add_assoc]

/-- Where a run from the start of a signal in `s` can be before an ITER_END: still at its start, or past SIG_START with
the signal not over before its duration from SIG_START's sample. -/
inductive SignalSince (s : State) : State → Prop
  | atStart : SignalSince s s
  | underWay {t : State} (phase : t.phase = .signal ∨ t.phase = .iterEnd)
      (pending : s.inputs.clk.toNat + signalDuration s.cfg s.seqRem.toNat ≤ t.earliestEnd) : SignalSince s t

theorem SignalSince.fires_nothing (h : SignalSince s t) (hp : s.phase = .sigStart) :
    t.dutyFires = false ∧ t.modeFires = false := by
  obtain _ | ⟨hp | hp⟩ := h <;> simp [State.dutyFires, State.modeFires, hp]

theorem SignalSince.next (h : SignalSince s t) (hp : s.phase = .sigStart) (ht : Running t)
    (hends : t.iterEnds = false) (hstep : LoopStep t u) : SignalSince s u := by
  obtain ⟨-, hmode⟩ := h.fires_nothing hp
  have hlater := hstep.earliestEnd_le ht hmode
  cases h with
  | atStart =>
    cases hstep with
    | signalStarted _ _ hfits =>
      have hleft := ht.one_le_seqRem (congrArg Phase.inSignal hp)
      exact .underWay (.inl rfl) (State.signalStarted_earliestEnd hleft hfits).ge
    | _ => simp_all
  | underWay hphase hpending =>
    refine .underWay ?_ (hpending.trans hlater)
    have hsignal : t.phase = .signal := hphase.resolve_right (of_decide_eq_false hends)
    cases hstep with
    | signalPolled | pulseEnded | pulseStarted => exact .inl hsignal
    | signalEnded => exact .inr rfl
    | _ => simp_all

/-- A run from the start of a signal in which no ITER_END ran fires nothing and stays in the signal or at its end. -/
theorem LoopRun.signalSince (h : Looping s) (hp : s.phase = .sigStart) (run : LoopRun s d m 0 t) :
    SignalSince s t ∧ d = 0 ∧ m = 0 := by
  refine run.induct (P := fun d m y t => y = 0 → SignalSince s t ∧ d = 0 ∧ m = 0) h
    (fun _ => ⟨.atStart, rfl, rfl⟩) ?_ rfl
  intro d m y t u ht _ hstep ih hy
  obtain ⟨hy, hends⟩ := Nat.add_eq_zero_iff.mp hy
  obtain ⟨hsince, rfl, rfl⟩ := ih hy
  obtain ⟨hduty, hmode⟩ := hsince.fires_nothing hp
  exact ⟨hsince.next hp ht.toRunning (by simpa using hends) hstep, by simp [hduty], by simp [hmode]⟩

end

/-! ## The obligations -/

/-- Settles O50: a signal's phase selects a sequencer operation, and none of them, faulting or not, emits or writes what
is the loop's. -/
theorem signalBlocksTheLoop : Obligations.SignalBlocksTheLoop := by
  intro s t i hp hr hsel
  obtain ⟨o, ho, hnext⟩ := State.exists_nextOp_eq hp
  obtain rfl : i.op = o := by simpa [hsel, hnext] using State.selected_op hr
  refine ⟨ho, fun hstep => ?_⟩
  have hs : Performs s i.op t := by
    rw [step, hsel] at hstep
    exact exec_performs hstep
  refine ⟨hs.phase_of_sequencer ho, fun he => ?_, fun _ _ he => ?_, fun _ he => ?_, hs.frame_of_sequencer ho⟩
  all_goals simpa using hs.mem_out_of_sequencer ho he

/-- Settles O51: a poll emits no edge and leaves as many, every other step emits the next one; a signal that is over is
at rest. -/
theorem signalEmitsTwoEdgesPerPulse : Obligations.SignalEmitsTwoEdgesPerPulse := by
  intro s t hinv hp hr hstep hnf
  have hs := hinv.looping (Phase.inLoop_of_inSignal hp)
  have hloop := hs.loopStep hr hstep hnf
  have hrest (ht : t.phase.inSignal = false) : t.edgesLeft = 0 ∧ t.indLevel = some .off := by
    obtain ⟨-, -, hoff⟩ := (hs.next hstep hloop).sequenced.atRest ht
    exact ⟨State.edgesLeft_of_rest ht, hoff⟩
  by_cases hpoll : s.phase = .signal ∧ s.PulseRunning s.inputs.clk
  · obtain rfl := hloop.eq_signalPolled hpoll.1 hpoll.2
    exact ⟨(Nat.zero_add _).symm, nofun, hrest⟩
  · have hreached (h : s.phase = .signal) : s.seqEnd ≤ s.inputs.clk := BitVec.not_lt.mp fun hrun => hpoll ⟨h, hrun⟩
    obtain ⟨hfall, -⟩ := hloop.edgesLeft_succ hs.toRunning hp hreached
    rw [hloop.pinLevels_eq hs.toRunning hp hreached]
    exact ⟨hfall.symm.trans (Nat.add_comm ..), fun l hl => List.mem_singleton.mp hl, hrest⟩

/-- Settles O52: SIG_START sets the earliest end to its sample plus the signal's duration, no later step brings it
nearer, and at ITER_END it is the last sample. -/
theorem signalLastsAtLeastItsPulses : Obligations.SignalLastsAtLeastItsPulses := by
  intro s t d m hinv hp run ht
  obtain ⟨hsince, hd, hm⟩ := run.signalSince (hinv.looping (congrArg Phase.inLoop hp)) hp
  refine ⟨?_, hd, hm⟩
  cases hsince with
  | atStart => exact absurd (hp.symm.trans ht) nofun
  | underWay _ hpending =>
    rw [State.earliestEnd_of_rest (congrArg Phase.inSignal ht), signalDuration, ← Nat.add_assoc] at hpending
    exact hpending

end Sys2Proof.Machine
end

section
/-! PROOF. Faults (spec/60_exceptions.md): what the operation FAULT answers for each code, which states a step can fault
into, and where no operation runs. -/

namespace Sys2Proof.Machine

/-! ## The codes that FAULT raises (R190) -/

@[simp] theorem FaultCode.ofVal_val (c : FaultCode) : FaultCode.ofVal c.val = some c := by
  cases c <;> rfl

theorem FaultCode.setWidth_val (c : FaultCode) : c.val.setWidth 4 = c.code := by
  cases c <;> rfl

theorem FaultCode.exists_val_eq {v : Byte} (h1 : 1 ≤ v.toNat) (h6 : v.toNat ≤ 6) : ∃ c : FaultCode, c.val = v := by
  obtain rfl | rfl | rfl | rfl | rfl | rfl : v = 1 ∨ v = 2 ∨ v = 3 ∨ v = 4 ∨ v = 5 ∨ v = 6 := by bv_omega
  exacts [⟨.configInvalid, rfl⟩, ⟨.periphInitRejected, rfl⟩, ⟨.clockNonmonotonic, rfl⟩, ⟨.timeOverflow, rfl⟩,
    ⟨.pwmWriteFailed, rfl⟩, ⟨.illegalState, rfl⟩]

theorem FaultCode.ofVal_eq_none {v : Byte} (h : v.toNat = 0 ∨ 7 ≤ v.toNat) : FaultCode.ofVal v = none := by
  unfold FaultCode.ofVal
  split
  case h_7 => rfl
  all_goals omega

/-- Settles O26: the code is a cause's number, and the FAULT word carries it as it is. That FAULT runs in every phase
but FAULT is the model's choice (notes/assumptions/5.md). -/
theorem faultRaisesItsCode : Obligations.FaultRaisesItsCode := by
  intro s md val hp h1 h6
  obtain ⟨c, rfl⟩ := FaultCode.exists_val_eq h1 h6
  refine (if_neg hp).trans ?_
  rw [FaultCode.ofVal_val, FaultCode.setWidth_val]
  rfl

/-- Settles O27: no cause has such a code. -/
theorem faultCodesNeverRaisedAreRefused : Obligations.FaultCodesNeverRaisedAreRefused := by
  intro s md val hp hval
  refine (if_neg hp).trans ?_
  rw [FaultCode.ofVal_eq_none hval]

/-! ## Precise faults (R191) -/

/-- What a faulting operation has written before its fault: nothing, the PWM configuration request of INIT, or the
whole firing of a DUTY_CHECK whose write failed. -/
theorem Performs.fault_cases {s t : State} {o : Op} (h : Performs s o t) (hf : t.phase = .fault) :
    (∃ c, t = s.tick.raise c) ∨ t = s.configured.raise .periphInitRejected ∨
      ∃ v, t = (s.dutyFired v).raise .pwmWriteFailed := by
  cases h with
  | raised => exact .inl ⟨_, rfl⟩
  | initRejected => exact .inr (.inl rfl)
  | dutyWriteFailed => exact .inr (.inr ⟨_, rfl⟩)
  | filled hp => exact absurd hf (State.filled_phase_ne_fault hp)
  | signalPolled hp | pulseEnded hp | pulseStarted hp => exact absurd (hp.symm.trans hf) nofun
  | _ => exact absurd hf nofun

/-- Settles O28: before every fault but that of a failed write, at most an event has been emitted. -/
theorem faultsArePrecise : Obligations.FaultsArePrecise := by
  intro i s t hexec hphase hcode
  obtain ⟨c, rfl⟩ | rfl | ⟨v, rfl⟩ := (exec_performs hexec).fault_cases hphase
  · rfl
  · rfl
  · exact absurd rfl hcode

/-! ## A clock that runs backward (R195) -/

/-- Settles O29: the six operations that sample begin with the same three checks. -/
theorem backwardClockFaults : Obligations.BackwardClockFaults := by
  intro i s hsamples hsel hwf hback
  have hclk : ¬s.ClockOk := BitVec.not_le.mpr hback
  cases i with
  | start | sample | sigStart | sigWait | sigOnEnd | sigOffEnd => exact sampled_of_backward _ hsel hwf hclk
  | reset | init | fill | dutyCheck | modeCheck | iterEnd | yield | fault => cases hsamples

/-! ## A draw out of range (R208) -/

theorem State.memWrite_eq_none {s : State} {i : Nat} {v : Byte} (h : v.toNat < s.cfg.min ∨ s.cfg.max < v.toNat) :
    s.memWrite i v = none :=
  if_neg fun ⟨_, hmin, hmax⟩ => by omega

/-- The free entropy draw is placed in [MIN, MAX] (R104). -/
theorem freeInputs_entropy_mem {c : Cfg} (hv : Valid c) (k : Nat) :
    c.min ≤ (freeInputs c k).entropy.toNat ∧ (freeInputs c k).entropy.toNat ≤ c.max := by
  obtain ⟨-, ⟨hle, hmax⟩, -⟩ := hv
  have hdraw := (Config.freeEntropy k (c.max - c.min)).isLt
  simp only [freeInputs, BitVec.toNat_ofNat]
  omega

/-- Settles O15: FILL has passed its checks when the table refuses the draw. -/
theorem fillRefusesEntropyOutOfRange : Obligations.FillRefusesEntropyOutOfRange := by
  intro s md idx val hp hwf
  refine ⟨fun hout => ?_, fun henv => ?_⟩
  · refine (checked_of _ ((State.nextOp_eq_iff_home rfl).mpr hp) hwf).trans ?_
    rw [State.memWrite_eq_none hout]
  · obtain ⟨hvalid, -⟩ := hwf
    rw [State.inputs, henv]
    exact freeInputs_entropy_mem hvalid s.drawNo

/-! ## Where no operation runs (R192, R204) -/

/-- Settles O30: phase FAULT selects nothing, and a request selects RESET. -/
theorem faultStateIsQuiescent : Obligations.FaultStateIsQuiescent := by
  refine fun s hp => ⟨fun hr => ?_, step_of_request⟩
  have hsel : s.selected = none :=
    Option.map_eq_none_iff.mp ((State.selected_op hr).trans (State.nextOp_eq_none.mpr hp))
  rw [step, hsel]
  rfl

theorem selectedOnly_of_not {s : State} {o : Op} (body : Result) (h : s.nextOp ≠ some o) :
    selectedOnly o s body = .fault .notSelected := if_neg h

/-- Settles O32: every meaning but RESET's and FAULT's begins with the check of its selection. -/
theorem unselectedOperationsDoNotRun : Obligations.UnselectedOperationsDoNotRun := by
  refine fun i s => ⟨fun hreset hfault hsel => ?_, fun hfault hp => ?_⟩
  · cases i with
    | reset => exact absurd rfl hreset
    | fault => exact absurd rfl hfault
    | _ => exact selectedOnly_of_not _ hsel
  · cases i <;> cases hfault
    exact if_pos hp

end Sys2Proof.Machine
end

section
/-! PROOF. Reset (spec/70_reset_and_hazards.md): what RESET leaves, and that it alone leaves phase FAULT. -/

namespace Sys2Proof.Machine

/-- Settles O12: `restart` takes every register from `State.reset`, which holds R47's values, and RESET's own word is
the one event after `tick`. -/
theorem resetResult : Obligations.ResetResult := fun _ => rfl

/-- A fault is never returned from (R202): without a request, a step from phase FAULT stays there. -/
theorem step_phase_of_fault {s t : State} (hr : s.inputs.rst = false) (hp : s.phase = .fault) (h : step s = .next t) :
    t.phase = .fault := by
  obtain ⟨hquiet, -⟩ := faultStateIsQuiescent s hp
  cases (hquiet hr).symm.trans h
  exact hp

/-- Settles O31: a request selects RESET before `phase` is read, and without one phase FAULT is kept. -/
theorem onlyResetLeavesFault : Obligations.OnlyResetLeavesFault := by
  refine fun s t => ⟨step_of_request, fun hstep hp hleft => ?_⟩
  by_contra hr
  exact hleft (step_phase_of_fault (Bool.eq_false_iff.mpr hr) hp hstep)

end Sys2Proof.Machine
end
